-- ==== Sys2Proof/Word.lean ====
section
/-! DEFINITION. The word types of the machine: bytes, 32-bit registers, 64-bit model-specific
registers, and four register values together (spec/10_state.md R7, R12). -/

namespace Sys2Proof

/-- One byte of memory, or one character of an identification string. -/
abbrev Byte := BitVec 8

/-- The contents of a 32-bit register (R7). -/
abbrev Word := BitVec 32

/-- The contents of a 64-bit model-specific register (R12, R13). -/
abbrev MsrWord := BitVec 64

/-- Values for EAX, EBX, ECX and EDX, in the order of the table of R49. -/
structure Quad where
  eax : Word
  ebx : Word
  ecx : Word
  edx : Word
  deriving DecidableEq, Repr

/-- Four zeros. -/
def Quad.zero : Quad := ⟨0, 0, 0, 0⟩

end Sys2Proof
end

