-- ==== Sys2Proof/Config.lean ====
section
/-! DEFINITION. The identification data of a processor (the configuration record CFG of
spec/00_scope.md R4), the profile `P4_FIRST` of spec/95_test_vectors.md, and the free values of the
model (R6). -/

namespace Sys2Proof

/-- The configuration record of R4. Every field is a constant of the processor that no step changes
(R3, D26); log entry 1 says why it stands in `State`. LEAF2 is a non-empty list, held as a first
image and the rest. LEAF4, a map from a 32-bit index, is held as listed images and the image of
every index not listed (log entry 12). -/
structure Config where
  /-- CPUID_IMPL: the processor implements CPUID. -/
  cpuidImpl : Bool
  /-- MAX_BASIC: highest basic input value recognised. -/
  maxBasic : Word
  /-- EXT_IMPL: extended-function leaves exist. -/
  extImpl : Bool
  /-- MAX_EXT: highest extended input value, meaningful when `extImpl`. -/
  maxExt : Word
  /-- VENDOR: the vendor identification string. -/
  vendor : Vector Byte 12
  /-- VERSION: leaf 1 EAX. -/
  version : Word
  /-- BRAND_INDEX: leaf 1 EBX[7:0]. -/
  brandIndex : Byte
  /-- CLFLUSH_LINE: leaf 1 EBX[15:8], in units of 8 bytes. -/
  clflushLine : Byte
  /-- LOGICAL_COUNT: leaf 1 EBX[23:16]. -/
  logicalCount : Byte
  /-- APIC_ID: leaf 1 EBX[31:24], of this logical processor. -/
  apicId : Byte
  /-- FEAT_ECX: leaf 1 ECX. -/
  featEcx : Word
  /-- FEAT_EDX: leaf 1 EDX. -/
  featEdx : Word
  /-- The first image of LEAF2. -/
  leaf2First : Quad
  /-- The further images of LEAF2. -/
  leaf2More : List Quad
  /-- PSN_IMPL: the processor serial number is supported and enabled (R70). -/
  psnImpl : Bool
  /-- PSN_0_31: bits 31:0 of the serial number. -/
  psnLow : Word
  /-- PSN_32_63: bits 63:32 of the serial number. -/
  psnHigh : Word
  /-- LEAF4 at the listed indices; the first entry of an index counts. -/
  leaf4Listed : List (Word × Quad)
  /-- LEAF4 at every other index. -/
  leaf4Rest : Quad
  /-- MON_MIN: smallest monitor-line size in bytes. -/
  monMin : BitVec 16
  /-- MON_MAX: largest monitor-line size in bytes. -/
  monMax : BitVec 16
  /-- EXT_SIG: leaf 80000001H EAX. -/
  extSig : Word
  /-- BRAND_STRING: 48 bytes, NUL terminated. -/
  brandString : Vector Byte 48
  /-- L2_INFO: leaf 80000006H ECX. -/
  l2Info : Word
  /-- UCODE_IMPL: the microcode update facility is supported. -/
  ucodeImpl : Bool
  /-- BOOT_NT4_IMPL: bit 22 of IA32_MISC_ENABLE exists. -/
  bootNt4Impl : Bool
  deriving DecidableEq, Repr

/-- The places of one execution of CPUID that may take a free value. -/
inductive FreeSlot where
  | eax
  | ebx
  | ecx
  | edx
  /-- Bits 31:0 of IA32_BIOS_SIGN_ID (R54, D10). -/
  | signatureLow
  deriving DecidableEq, Repr

/-- `any32()` of R6: the value of a place at the n-th execution of CPUID. It has no body, so
nothing can be proved of it. DESIGN CHOICE (log entry 9), safe. -/
opaque Config.anyDword : FreeSlot → Nat → Word

/-- The free choice of the next leaf-2 image when there is more than one (R83, log entry 11). It has
no body; it is reduced modulo the number of images where it is used. -/
opaque Config.leaf2Next : Nat → Nat

/-- The ASCII bytes of the source's vendor string (R58). -/
def Config.genuineIntel : Vector Byte 12 :=
  #v[0x47, 0x65, 0x6E, 0x75, 0x69, 0x6E, 0x65, 0x49, 0x6E, 0x74, 0x65, 0x6C]

/-- The brand string of the first Pentium 4: the register values of the table of R88, each written
low byte first. -/
def Config.firstPentium4Brand : Vector Byte 48 :=
  #v[0x20, 0x20, 0x20, 0x20, 0x20, 0x20, 0x20, 0x20, 0x20, 0x20, 0x20, 0x20, 0x20, 0x20, 0x49, 0x6E,
    0x74, 0x65, 0x6C, 0x28, 0x52, 0x29, 0x20, 0x50, 0x65, 0x6E, 0x74, 0x69, 0x75, 0x6D, 0x28, 0x52,
    0x29, 0x20, 0x34, 0x20, 0x43, 0x50, 0x55, 0x20, 0x31, 0x35, 0x30, 0x30, 0x4D, 0x48, 0x7A, 0x00]

/-- The profile `P4_FIRST` of 95_test_vectors.md section 1. The maxima, the vendor string, the
leaf-2 image and the brand string are the source's; the others are that file's illustrations, and
fields it leaves absent are 0. It is the processor of `State.reset`: DESIGN CHOICE (log entry 2),
unsafe. -/
def Config.p4First : Config where
  cpuidImpl := true
  maxBasic := 0x00000002
  extImpl := true
  maxExt := 0x80000004
  vendor := Config.genuineIntel
  version := 0x00000F00
  brandIndex := 0x08
  clflushLine := 0x08
  logicalCount := 0x00
  apicId := 0x00
  featEcx := 0x00000000
  featEdx := 0x2FEBFBFF
  leaf2First := ⟨0x665B5001, 0x00000000, 0x00000000, 0x007A7000⟩
  leaf2More := []
  psnImpl := false
  psnLow := 0
  psnHigh := 0
  leaf4Listed := []
  leaf4Rest := Quad.zero
  monMin := 0
  monMax := 0
  extSig := 0
  brandString := Config.firstPentium4Brand
  l2Info := 0
  ucodeImpl := true
  bootNt4Impl := false

end Sys2Proof
end

