-- ==== Sys2Proof/Syntax.lean ====
section
/-! DEFINITION. The instructions of the hardware: spec/opcode_table.json has one row (R46). -/

namespace Sys2Proof

/-- One constructor per row of spec/opcode_table.json. -/
inductive Instr where
  /-- `CPUID`, bytes `0F A2`, no explicit operand (R37, R39). -/
  | cpuid
  deriving DecidableEq, Repr

end Sys2Proof
end

