-- ==== Sys2Proof/Machine/Bits.lean ====
section
/-! DEFINITION. Bit fields, string packing and byte order (spec/00_scope.md R5, section 4;
spec/20_memory.md R25), and the little accessors over a configuration's lists. -/

namespace Sys2Proof

/-- R5: four characters of a string in one register, the first in bits 7:0. -/
def pack4 {n : Nat} (s : Vector Byte n) (k : Nat) (h : k + 3 < n) : Word :=
  s[k + 3] ++ s[k + 2] ++ s[k + 1] ++ s[k]

/-- Byte k of a word: bits 8k+7 to 8k. -/
def byteOf (w : Word) (k : Nat) : Byte :=
  w.extractLsb' (8 * k) 8

/-- R25: the bytes of a 32-bit value at ascending addresses, least significant first. -/
def dwordBytes (w : Word) : List Byte :=
  [byteOf w 0, byteOf w 1, byteOf w 2, byteOf w 3]

/-- The 32-bit value of four bytes, the least significant first (R25). -/
def dwordOfBytes (b0 b1 b2 b3 : Byte) : Word :=
  b3 ++ b2 ++ b1 ++ b0

/-- Bits hi to lo of a word, as a number (the notation `v[hi:lo]` of 00_scope.md section 4). -/
def fieldNat (w : Word) (hi lo : Nat) : Nat :=
  (w.extractLsb hi lo).toNat

/-- A word with one bit set to the given value. -/
def withBit {n : Nat} (w : BitVec n) (k : Nat) (b : Bool) : BitVec n :=
  if b then w ||| BitVec.twoPow n k else w &&& ~~~(BitVec.twoPow n k)

end Sys2Proof
end

