-- ==== Sys2Proof/Machine/Processors.lean ====
section
/-! DEFINITION. Reading a configuration: the leaf-2 and leaf-4 images, and the processor rows of the
source's second table (spec/00_scope.md R2, spec/41_basic_leaves.md R73, R75). -/

namespace Sys2Proof

/-- All leaf-2 register images; there is at least one (R4). -/
def Config.leaf2Images (c : Config) : List Quad :=
  c.leaf2First :: c.leaf2More

/-- N of R76: how many times leaf 2 must be executed. -/
def Config.leaf2Count (c : Config) : Nat :=
  c.leaf2More.length + 1

/-- The leaf-2 image at a position. A position at or above N does not occur in a run (the position
is kept below N); it is read modulo N. -/
def Config.leaf2At (c : Config) (pos : Nat) : Quad :=
  c.leaf2Images.getD (pos % c.leaf2Count) c.leaf2First

/-- `CFG.LEAF4` (R73): the image of a cache index. -/
def Config.leaf4At (c : Config) (index : Word) : Quad :=
  (c.leaf4Listed.lookup index).getD c.leaf4Rest

/-- The rows of the table "Highest CPUID Source Operand for IA-32 Processors" (R2). -/
inductive ProcessorRow where
  | earlierIntel486
  | laterIntel486OrPentium
  | pentiumProPentiumIIOrCeleron
  | pentiumIII
  | pentium4
  | intelXeon
  | pentiumM
  | pentium4HyperThreading
  deriving DecidableEq, Repr

/-- The middle column of R2; none where CPUID is not implemented. -/
def ProcessorRow.maxBasic : ProcessorRow → Option Word
  | .earlierIntel486 => none
  | .laterIntel486OrPentium => some 0x01
  | .pentiumProPentiumIIOrCeleron => some 0x02
  | .pentiumIII => some 0x03
  | .pentium4 => some 0x02
  | .intelXeon => some 0x02
  | .pentiumM => some 0x02
  | .pentium4HyperThreading => some 0x05

/-- The last column of R2; none where extended leaves are not implemented. -/
def ProcessorRow.maxExt : ProcessorRow → Option Word
  | .earlierIntel486 => none
  | .laterIntel486OrPentium => none
  | .pentiumProPentiumIIOrCeleron => none
  | .pentiumIII => none
  | .pentium4 => some 0x80000004
  | .intelXeon => some 0x80000004
  | .pentiumM => some 0x80000004
  | .pentium4HyperThreading => some 0x80000008

/-- A configuration has the maxima of a row of R2. -/
def Config.maximaOfRow (c : Config) (r : ProcessorRow) : Bool :=
  (match r.maxBasic with
    | none => !c.cpuidImpl
    | some m => c.cpuidImpl && c.maxBasic == m) &&
  (match r.maxExt with
    | none => !c.extImpl
    | some m => c.extImpl && c.maxExt == m)

/-- A configuration of a row of R2: its maxima, and the values R4 fixes beside them. VENDOR is
"GenuineIntel", since every row is of Intel processors; LOGICAL_COUNT is two on the Hyper-Threading
row; PSN_IMPL is true on the Pentium III row alone. -/
def Config.ofRow (c : Config) (r : ProcessorRow) : Bool :=
  c.maximaOfRow r && c.vendor == Config.genuineIntel &&
    (r != .pentium4HyperThreading || c.logicalCount == 2) && (!c.psnImpl || r == .pentiumIII)

/-- R75: the basic leaves present on a row of R2. -/
def ProcessorRow.leavesPresent (r : ProcessorRow) : List Nat :=
  match r.maxBasic with
  | none => []
  | some m => List.range (m.toNat + 1)

end Sys2Proof
end

