-- ==== Sys2Proof/WellFormed.lean ====
section
/-! DEFINITION. What a well-formed instruction and a well-formed configuration are. CPUID has no
operand field (R39), so the checks with content are those on the configuration: the constraints of
spec/00_scope.md R4, spec/42_cache_tlb_leaf2.md R76 and spec/41_basic_leaves.md R73. -/

namespace Sys2Proof

/-- CPUID has no operand, immediate or field to check (R39). -/
def Instr.wf : Instr → Bool
  | .cpuid => true

/-- R4: MAX_BASIC is at least 1 whenever CPUID is implemented. -/
def Config.maxBasicOk (c : Config) : Bool :=
  !c.cpuidImpl || decide (1 ≤ c.maxBasic)

/-- R4: MAX_EXT is at least 80000000H whenever extended leaves exist. -/
def Config.maxExtOk (c : Config) : Bool :=
  !c.extImpl || decide (0x80000000 ≤ c.maxExt)

/-- R76, R77: AL of every leaf-2 image is the number of images. -/
def Config.leaf2Ok (c : Config) : Bool :=
  c.leaf2Images.all fun q => (byteOf q.eax 0).toNat == c.leaf2Count

/-- R4, R70, N12: the serial number is available exactly when FEAT_EDX bit 18 reports it. -/
def Config.psnOk (c : Config) : Bool :=
  c.psnImpl == c.featEdx.getLsbD 18

/-- R71, R73: EDX of every leaf-4 image is 0. -/
def Config.leaf4EdxOk (c : Config) : Bool :=
  c.leaf4Rest.edx == 0 && c.leaf4Listed.all fun e => e.2.edx == 0

/-- R73: some index has cache type 0 ("no more caches"): a listed one, or the rest, which some index
falls under when fewer than 2^32 indices are listed. -/
def Config.leaf4EndOk (c : Config) : Bool :=
  c.leaf4Listed.any (fun e => fieldNat (c.leaf4At e.1).eax 4 0 == 0) ||
  (fieldNat c.leaf4Rest.eax 4 0 == 0 && decide (c.leaf4Listed.length < 2 ^ 32))

/-- R87: the brand string holds a NUL byte. -/
def Config.brandOk (c : Config) : Bool :=
  c.brandString.toList.contains 0

/-- The constraints between parameters that the spec states (R4). -/
def Config.wf (c : Config) : Bool :=
  c.maxBasicOk && c.maxExtOk && c.leaf2Ok && c.psnOk && c.leaf4EdxOk && c.leaf4EndOk && c.brandOk

end Sys2Proof
end

