-- ==== Sys2Proof/Decode.lean ====
section
/-! DEFINITION. The decoder, total on any bytes and rejecting by name, and the encoder
(spec/30_encoding.md R37 to R42). -/

namespace Sys2Proof

/-- Why a byte sequence is no instruction of this hardware. -/
inductive DecodeError where
  /-- Fewer than two bytes: no instruction is shorter (R37). -/
  | tooShort
  /-- The sequence begins with a prefix byte; the spec gives a prefixed form no meaning (R42). -/
  | prefixed (b : Byte)
  /-- The two bytes match no row of the opcode table (R40; 95 E3). -/
  | noRow (b0 b1 : Byte)
  deriving DecidableEq, Repr

/-- A row of the opcode table: an instruction is this row's when `word & mask = pattern` (R38). -/
structure OpcodeRow where
  mask : BitVec 16
  pattern : BitVec 16
  instr : Instr
  deriving DecidableEq, Repr

/-- spec/opcode_table.json: one row. -/
def opcodeTable : List OpcodeRow :=
  [⟨0xFFFF, 0x0FA2, .cpuid⟩]

/-- The 16-bit pattern of two instruction bytes, the first in bits 15:8 (R38). -/
def opcodeWord (b0 b1 : Byte) : BitVec 16 :=
  b0 ++ b1

/-- The instruction of a 16-bit pattern. -/
def decodeWord (w : BitVec 16) : Option Instr :=
  (opcodeTable.find? fun r => w &&& r.mask == r.pattern).map OpcodeRow.instr

/-- The prefix bytes: 66H, F0H and F3H are those of 95 E4; the others are IA-32's (PRESUMED, log
entry 15; safe: every one of them is refused in any case, and this only chooses the refusal's
name). -/
def prefixBytes : List Byte :=
  [0x66, 0x67, 0xF0, 0xF2, 0xF3, 0x26, 0x2E, 0x36, 0x3E, 0x64, 0x65]

/-- One instruction from the front of a byte sequence, with the bytes after it (R40: the next
instruction starts two bytes on). -/
def decode : List Byte → Except DecodeError (Instr × List Byte)
  | b0 :: b1 :: rest =>
    match decodeWord (opcodeWord b0 b1) with
    | some i => .ok (i, rest)
    | none => if b0 ∈ prefixBytes then .error (.prefixed b0) else .error (.noRow b0 b1)
  | [b0] => if b0 ∈ prefixBytes then .error (.prefixed b0) else .error .tooShort
  | [] => .error .tooShort

/-- The 16-bit pattern of an instruction (R37). -/
def encodeWord : Instr → BitVec 16
  | .cpuid => 0x0FA2

/-- The two bytes of a 16-bit pattern, at ascending addresses (R37, R24): bits 15:8 first. -/
def wordBytes (w : BitVec 16) : List Byte :=
  [w.extractLsb' 8 8, w.extractLsb' 0 8]

/-- The bytes of an instruction. -/
def encode (i : Instr) : List Byte :=
  wordBytes (encodeWord i)

/-- The bytes of a word of spec/opcode_table.json, which has the first byte in bits 15:8 (its
byte_order_note); bits at and above nbits are 0, and the longest instruction has 16 (log entry
29). -/
def tableWordBytes (nbits w : Nat) : List Byte :=
  wordBytes (BitVec.ofNat 16 (w % 2 ^ nbits))

/-- The instruction the decoder reads from a word of the opcode table. -/
def decodeTableWord (nbits w : Nat) : Option Instr :=
  match decode (tableWordBytes nbits w) with
  | .ok (i, _) => some i
  | .error _ => none

end Sys2Proof
end

