-- ==== Sys2Proof/Machine/State.lean ====
section
/-! DEFINITION. The machine's state as plain data, its faults and refusals, and the state after
reset (spec/10_state.md, spec/70_reset_and_hazards.md). INVENTORY.md lists every field with its
rule and reset value. -/

namespace Sys2Proof.Machine

/-- Why the machine stops with an exception. -/
inductive Fault where
  /-- `#UD`. Raised by CPUID on a processor that does not implement it, with nothing changed (R56,
  R102). Its delivery is not in the source and not modelled (R107, D11); safe, log entry 19. -/
  | invalidOpcode
  deriving DecidableEq, Repr

/-- Where the model makes no claim (the spec's `refuse`). -/
inductive Refusal where
  /-- An instruction without a meaning; raised by `exec` alone, and by no arm of it now. Safe. -/
  | notModelled (mnemonic : String)
  /-- A fetch at pc = FFFFFFFFH, whose second byte lies beyond the top (R9, D4). Raised by the fetch.
  Safe. -/
  | fetchStraddlesTop
  /-- A fetch from an address whose byte the machine does not hold (R24: "only from memory it holds
  as program text"). Raised by the fetch. Safe. -/
  | noProgramText (address : Word)
  /-- The bytes at pc are no instruction of this hardware (R40, R42; 95 E3, E4). Raised by the fetch.
  Safe. -/
  | undecodable (e : DecodeError)
  deriving DecidableEq, Repr

/-- Memory: the bytes the machine holds, by address, addresses strictly rising and below 2^32. An
address not listed holds no value (R24; log entry 18). -/
abbrev Memory := List Host.Cell

/-- State that the spec names and does not describe (R7 last sentence, R14, R15). CPUID neither reads
nor writes any of it. Where the spec gives no width the contents are a natural number, where it
gives no count a list (log entry 8). -/
structure NamedState where
  /-- ESI, EDI, EBP, ESP (R7). -/
  esi : Word
  edi : Word
  ebp : Word
  esp : Word
  /-- The control bits of CR4, which have no position in the spec (R14, R111). -/
  cr4Vme : Bool
  cr4Pvi : Bool
  cr4De : Bool
  cr4Pse : Bool
  cr4Tsd : Bool
  cr4Mce : Bool
  cr4Pge : Bool
  cr4Osfxsr : Bool
  /-- The PAE control bit that R14 says is implied without a register name. -/
  paeControl : Bool
  /-- CR3, DR4, DR5 (R15). -/
  cr3 : Nat
  dr4 : Nat
  dr5 : Nat
  /-- The MTRRcap MSR and the memory type range registers (R15). -/
  mtrrCap : Nat
  mtrrs : List Nat
  /-- The MCG_CAP MSR and the banks of error reporting MSRs (R15). -/
  mcgCap : Nat
  errorBanks : List Nat
  /-- The MSRs associated with SYSENTER and SYSEXIT (R15). -/
  sysenterMsrs : List Nat
  /-- The page attribute table (R15). -/
  pageAttributeTable : Nat
  /-- The internal temperature and performance MSRs (R15, R117). -/
  thermalMsrs : List Nat
  /-- The time-stamp counter (R15, R112). -/
  timeStampCounter : Nat
  /-- The TSS (R15), as a whole. -/
  tss : Nat
  /-- The software indirection bitmap of the TSS (R15). -/
  tssBitmap : List Bool
  deriving DecidableEq, Repr

/-- The state of one logical processor. -/
structure State where
  /-- The identification data CFG of this processor (R4); no step changes it (R3). -/
  cfg : Config
  /-- EAX, EBX, ECX, EDX (R7). -/
  regs : Quad
  /-- The program counter: the address of the instruction's first byte (R9). -/
  pc : Word
  /-- EFLAGS; bit 21 is the ID flag (R10). -/
  eflags : Word
  /-- IA32_BIOS_SIGN_ID (R12). It stands here on every processor; whether it exists on one without the
  microcode update facility the spec leaves open (R54, N10): DESIGN CHOICE, log entry 35. -/
  biosSignId : MsrWord
  /-- IA32_MISC_ENABLE (R13). It stands here on every processor, where the spec leaves its existence
  open too (N10): DESIGN CHOICE, log entry 35. -/
  miscEnable : MsrWord
  /-- The microcode update signature (R21). -/
  ucodeSig : Word
  /-- The leaf-2 iteration position (R20). -/
  l2pos : Nat
  /-- Memory (R24, R28). -/
  mem : Memory
  /-- State the spec names only (R7, R14, R15). -/
  named : NamedState
  /-- The model's own counter of executions of CPUID, the argument of the free values (log
  entry 9). -/
  draws : Nat
  deriving DecidableEq, Repr

/-- The named-only state at reset: the spec states no value (R14, R15). DESIGN CHOICE (log entry 8),
unsafe. -/
def NamedState.launch : NamedState where
  esi := 0
  edi := 0
  ebp := 0
  esp := 0
  cr4Vme := false
  cr4Pvi := false
  cr4De := false
  cr4Pse := false
  cr4Tsd := false
  cr4Mce := false
  cr4Pge := false
  cr4Osfxsr := false
  paeControl := false
  cr3 := 0
  dr4 := 0
  dr5 := 0
  mtrrCap := 0
  mtrrs := []
  mcgCap := 0
  errorBanks := []
  sysenterMsrs := []
  pageAttributeTable := 0
  thermalMsrs := []
  timeStampCounter := 0
  tss := 0
  tssBitmap := []

/-- The values `State.reset` has where the spec states none (R22, R118). DESIGN CHOICE (log entries
2 to 9), unsafe; bit 21 of EFLAGS, the parameter RESET_ID, is PRESUMED 0 (D12). -/
def State.launch : State where
  cfg := Config.p4First
  regs := Quad.zero
  pc := 0
  eflags := 0
  biosSignId := 0
  miscEnable := 0
  ucodeSig := 0x00000012
  l2pos := 0
  mem := []
  named := NamedState.launch
  draws := 0

/-- What reset leaves, whatever was there (R22): BOOT_NT4 is clear, the leaf-2 position is 0 when
there is one image and some position otherwise, and everything else is unspecified, so it is the
argument's. The identification data are the same before and after (R120). -/
def State.resetFrom (p : State) : State :=
  { p with
    miscEnable := withBit p.miscEnable 22 false
    l2pos := p.l2pos % p.cfg.leaf2Count }

/-- The machine right after reset: what R22 states, over the values the log names. -/
def State.reset : State :=
  State.resetFrom State.launch

end Sys2Proof.Machine
end

