-- ==== Sys2Proof/Machine/Ops.lean ====
section
/-! DEFINITION. The named operations over memory, registers and model-specific registers, raising an
exception, and the serialising step (spec/00_scope.md section 4, spec/20_memory.md,
spec/60_exceptions.md). -/

namespace Sys2Proof.Machine

/-- Every address from lo on, strictly rising and below 2^32. -/
def Memory.wfFrom (lo : Nat) : Memory → Bool
  | [] => true
  | c :: rest => decide (lo ≤ c.1) && decide (c.1 < 2 ^ 32) && Memory.wfFrom (c.1 + 1) rest

/-- The canonical form of a memory. An unlisted address holds no value, so no entry can equal what an
unlisted address reads as. -/
def Memory.wf (m : Memory) : Bool :=
  Memory.wfFrom 0 m

/-- The byte at an address, if the machine holds one. -/
def Memory.readByte : Memory → Nat → Option Byte
  | [], _ => none
  | c :: rest, a => if a = c.1 then some c.2 else Memory.readByte rest a

/-- One byte written at an address, keeping the canonical form. -/
def Memory.insertByte : Memory → Nat → Byte → Memory
  | [], a, b => [(a, b)]
  | c :: rest, a, b =>
    if a < c.1 then (a, b) :: c :: rest
    else if a = c.1 then (a, b) :: rest
    else c :: Memory.insertByte rest a b

/-- One byte written at an address of the 32-bit space (R28). -/
def Memory.writeByte (m : Memory) (a : Word) (b : Byte) : Memory :=
  Memory.insertByte m a.toNat b

/-- Bytes written at ascending addresses from a; none when they would pass the top of the address
space, whose wrap the spec leaves undefined (D4). -/
def Memory.writeBytes (m : Memory) (a : Word) (bs : List Byte) : Option Memory :=
  if a.toNat + bs.length ≤ 2 ^ 32 then some (go m a.toNat bs) else none
where
  go (m : Memory) (a : Nat) : List Byte → Memory
    | [] => m
    | b :: rest => go (Memory.insertByte m a b) (a + 1) rest

/-- The n bytes at ascending addresses from a; none when one is not held or lies past the top. -/
def Memory.readBytes (m : Memory) (a : Word) (n : Nat) : Option (List Byte) :=
  if a.toNat + n ≤ 2 ^ 32 then go m a.toNat n else none
where
  go (m : Memory) (a : Nat) : Nat → Option (List Byte)
    | 0 => some []
    | n + 1 =>
      match m.readByte a, go m (a + 1) n with
      | some b, some rest => some (b :: rest)
      | _, _ => none

/-- `MemWrite(a, 4, v)`, least significant byte first (R25). CPUID uses it nowhere (R23). -/
def Memory.writeDword (m : Memory) (a : Word) (v : Word) : Option Memory :=
  m.writeBytes a (dwordBytes v)

/-- `MemRead(a, 4)`, least significant byte first (R25). CPUID uses it nowhere (R23). -/
def Memory.readDword (m : Memory) (a : Word) : Option Word :=
  match m.readBytes a 4 with
  | some [b0, b1, b2, b3] => some (dwordOfBytes b0 b1 b2 b3)
  | _ => none

/-- The four general registers the source names (R7). -/
inductive Reg where
  | eax
  | ebx
  | ecx
  | edx
  deriving DecidableEq, Repr

/-- `x[r]`. -/
def State.readReg (s : State) : Reg → Word
  | .eax => s.regs.eax
  | .ebx => s.regs.ebx
  | .ecx => s.regs.ecx
  | .edx => s.regs.edx

/-- `x[r] <- v`. -/
def State.writeReg (s : State) (r : Reg) (v : Word) : State :=
  match r with
  | .eax => { s with regs := { s.regs with eax := v } }
  | .ebx => { s with regs := { s.regs with ebx := v } }
  | .ecx => { s with regs := { s.regs with ecx := v } }
  | .edx => { s with regs := { s.regs with edx := v } }

/-- All four registers at once (R17). -/
def State.setRegs (s : State) (q : Quad) : State :=
  { s with regs := q }

/-- The program counter moved past an instruction of n bytes, modulo 2^32 (R9, D4). -/
def State.advancePc (s : State) (n : Nat) : State :=
  { s with pc := s.pc + BitVec.ofNat 32 n }

/-- Another leaf-2 position (R20). -/
def State.setLeaf2Position (s : State) (p : Nat) : State :=
  { s with l2pos := p }

/-- `MSR[IA32_BIOS_SIGN_ID] <- v` (R12). -/
def State.setBiosSignId (s : State) (v : MsrWord) : State :=
  { s with biosSignId := v }

/-- The counter of the free values moved on, so that the next execution draws fresh ones (R6). -/
def State.nextDraw (s : State) : State :=
  { s with draws := s.draws + 1 }

/-- The update signature field of IA32_BIOS_SIGN_ID, bits 63:32 (R12). -/
def State.updateSignature (s : State) : Word :=
  s.biosSignId.extractLsb' 32 32

/-- IA32_MISC_ENABLE bit 22, BOOT_NT4 (R13). -/
def State.bootNt4 (s : State) : Bool :=
  s.miscEnable.getLsbD 22

/-- IA32_MISC_ENABLE bit 10, PBE enable (R13). CPUID does not read it. -/
def State.pbeEnable (s : State) : Bool :=
  s.miscEnable.getLsbD 10

/-- IA32_MISC_ENABLE bit 24, L1 Data Cache Context Mode (R13). CPUID does not read it. -/
def State.l1ContextMode (s : State) : Bool :=
  s.miscEnable.getLsbD 24

/-- `serialize()` (R53): everything earlier is complete before the next fetch. One agent executes in
order with no buffer, so there is nothing to drain (R122; log entry 20). -/
def State.serialize (s : State) : State :=
  s

/-- `raise UD()` (R102): the abstract outcome, no register, flag or MSR changed. Delivery (vector,
saved state, handler) and return are not in the source, so neither is modelled (R107, R108, D11; log
entry 19). -/
def raiseInvalidOpcode : Host.Outcome State Fault Refusal :=
  .fault .invalidOpcode

end Sys2Proof.Machine
end

