-- ==== Sys2Proof/Machine/Flags.lean ====
section
/-! DEFINITION. The ID flag (spec/10_state.md R10, R11). CPUID computes, reads and writes no flag
(R52), so there is no flag computation of an instruction. -/

namespace Sys2Proof.Machine

/-- The position of the ID flag in EFLAGS (R10). -/
def idBit : Nat := 21

/-- EFLAGS.ID (R10). -/
def State.idFlag (s : State) : Bool :=
  s.eflags.getLsbD idBit

/-- What software's write to EFLAGS.ID does (R10): with CPUID implemented the bit takes the value;
without it the bit keeps its old value (D24; log entry 24). The instruction that writes EFLAGS is
not in the source (N7). -/
def State.writeIdFlag (s : State) (b : Bool) : State :=
  { s with eflags := if s.cfg.cpuidImpl then withBit s.eflags idBit b else s.eflags }

end Sys2Proof.Machine
end

