-- ==== Sys2Proof/Machine/Operands.lean ====
section
/-! DEFINITION. The implicit operands of CPUID: the sub-register names, and which leaf the input
value selects (spec/10_state.md R8, spec/40_cpuid_instruction.md R47, R48). -/

namespace Sys2Proof.Machine

/-- AL, BL, CL, DL (R8). -/
inductive ByteReg where
  | al
  | bl
  | cl
  | dl
  deriving DecidableEq, Repr

/-- The register whose bits 7:0 a byte register is (R8). -/
def ByteReg.whole : ByteReg → Reg
  | .al => .eax
  | .bl => .ebx
  | .cl => .ecx
  | .dl => .edx

/-- A byte register: bits 7:0 of its register (R8). -/
def State.readByteReg (s : State) (r : ByteReg) : Byte :=
  byteOf (s.readReg r.whole) 0

/-- `eff_max_basic()` (R48): the highest basic input, at most 3 while BOOT_NT4 is set on a processor
that has the bit (D9; log entry 14). -/
def State.effMaxBasic (s : State) : Word :=
  if s.cfg.bootNt4Impl && s.bootNt4 then
    if s.cfg.maxBasic ≤ 3 then s.cfg.maxBasic else 3
  else s.cfg.maxBasic

/-- `select_leaf(v)` (R47), all comparisons unsigned: a basic leaf up to the effective maximum, an
extended leaf up to MAX_EXT where extended leaves exist, and otherwise the highest basic leaf (D5;
log entry 13). -/
def State.selectLeaf (s : State) (v : Word) : Word :=
  if v ≤ s.effMaxBasic then v
  else if s.cfg.extImpl && decide (0x80000000 ≤ v) && decide (v ≤ s.cfg.maxExt) then v
  else s.effMaxBasic

/-- The leaf that CPUID selects in a state: the one its EAX asks for. -/
def State.selectedLeaf (s : State) : Word :=
  s.selectLeaf s.regs.eax

end Sys2Proof.Machine
end

