-- ==== Sys2Proof/Machine/Leaves.lean ====
section
/-! DEFINITION. What each leaf returns: the table of spec/40_cpuid_instruction.md R49, one definition
per leaf (spec/41_basic_leaves.md, 42_cache_tlb_leaf2.md, 43_extended_leaves.md). -/

namespace Sys2Proof.Machine

/-- What a leaf puts into one register: a value, or `any32()` where the spec says "Reserved" and no
more (R6, D6). -/
inductive LeafWord where
  | value (w : Word)
  | any
  deriving DecidableEq, Repr

/-- One row of R49. -/
structure LeafRow where
  eax : LeafWord
  ebx : LeafWord
  ecx : LeafWord
  edx : LeafWord
  deriving DecidableEq, Repr

/-- What a row puts into one register. -/
def LeafRow.word (r : LeafRow) : Reg → LeafWord
  | .eax => r.eax
  | .ebx => r.ebx
  | .ecx => r.ecx
  | .edx => r.edx

/-- The leaves that have a row in R49, and the one name for those that have none (R50). -/
inductive Leaf where
  | basic0
  | basic1
  | basic2
  | basic3
  | basic4
  | basic5
  | ext0
  | ext1
  | ext2
  | ext3
  | ext4
  | ext5
  | ext6
  | ext7
  | ext8
  | noContent
  deriving DecidableEq, Repr

/-- The leaf column of R49. -/
def leafTable : List (Word × Leaf) :=
  [(0, .basic0), (1, .basic1), (2, .basic2), (3, .basic3), (4, .basic4), (5, .basic5),
    (0x80000000, .ext0), (0x80000001, .ext1), (0x80000002, .ext2), (0x80000003, .ext3),
    (0x80000004, .ext4), (0x80000005, .ext5), (0x80000006, .ext6), (0x80000007, .ext7),
    (0x80000008, .ext8)]

/-- The row a selected leaf has in R49. -/
def Leaf.ofWord (leaf : Word) : Leaf :=
  (leafTable.lookup leaf).getD .noContent

/-- A row in which every register has a value. -/
def LeafRow.ofQuad (q : Quad) : LeafRow :=
  ⟨.value q.eax, .value q.ebx, .value q.ecx, .value q.edx⟩

/-- Leaf 0 (R58): the highest basic input, and the vendor string in EBX, EDX, ECX. -/
def leaf0Row (c : Config) (maxBasic : Word) : LeafRow where
  eax := .value maxBasic
  ebx := .value (pack4 c.vendor 0 (by decide))
  edx := .value (pack4 c.vendor 4 (by decide))
  ecx := .value (pack4 c.vendor 8 (by decide))

/-- Leaf 1 (R59, R63): version, the four bytes of EBX, and the feature words. -/
def leaf1Row (c : Config) : LeafRow where
  eax := .value c.version
  ebx := .value (c.apicId ++ c.logicalCount ++ c.clflushLine ++ c.brandIndex)
  ecx := .value c.featEcx
  edx := .value c.featEdx

/-- Leaf 2 (R76): the register image at the iteration position (R20, R49). With more than one image
the position is a free value, as R83 requires of a model that admits that case (log entry 11). -/
def leaf2Row (c : Config) (l2pos : Nat) : LeafRow :=
  LeafRow.ofQuad (c.leaf2At l2pos)

/-- Leaf 3 (R69): bits 63:0 of the serial number in EDX and ECX where it is available. -/
def leaf3Row (c : Config) : LeafRow where
  eax := .any
  ebx := .any
  ecx := if c.psnImpl then .value c.psnLow else .any
  edx := if c.psnImpl then .value c.psnHigh else .any

/-- Leaf 4 (R71): the image of the cache index in ECX (D8; log entry 12). -/
def leaf4Row (c : Config) (inEcx : Word) : LeafRow :=
  LeafRow.ofQuad (c.leaf4At inEcx)

/-- Leaf 5 (R74): the monitor-line sizes, zero extended. -/
def leaf5Row (c : Config) : LeafRow where
  eax := .value (c.monMin.setWidth 32)
  ebx := .value (c.monMax.setWidth 32)
  ecx := .value 0
  edx := .value 0

/-- Leaf 80000000H (R84). -/
def ext0Row (c : Config) : LeafRow where
  eax := .value c.maxExt
  ebx := .any
  ecx := .any
  edx := .any

/-- Leaf 80000001H (R85). -/
def ext1Row (c : Config) : LeafRow where
  eax := .value c.extSig
  ebx := .any
  ecx := .any
  edx := .any

/-- Leaves 80000002H to 80000004H (R86): sixteen characters of the brand string from k on, in EAX,
EBX, ECX, EDX. -/
def brandRow (c : Config) (k : Nat) (h : k + 15 < 48) : LeafRow where
  eax := .value (pack4 c.brandString k (by omega))
  ebx := .value (pack4 c.brandString (k + 4) (by omega))
  ecx := .value (pack4 c.brandString (k + 8) (by omega))
  edx := .value (pack4 c.brandString (k + 12) (by omega))

/-- Leaves 80000005H, 80000007H, 80000008H (R89, R91, R92): "Reserved = 0" in all four registers. -/
def zeroRow : LeafRow :=
  LeafRow.ofQuad Quad.zero

/-- Leaf 80000006H (R90). -/
def ext6Row (c : Config) : LeafRow where
  eax := .value 0
  ebx := .value 0
  ecx := .value c.l2Info
  edx := .value 0

/-- A selected leaf that the source gives no content (R50, D25). -/
def noContentRow : LeafRow :=
  ⟨.any, .any, .any, .any⟩

/-- `leaf_value(leaf, in_ecx)` (R49) in a state. -/
def State.leafRow (s : State) (leaf inEcx : Word) : LeafRow :=
  match Leaf.ofWord leaf with
  | .basic0 => leaf0Row s.cfg s.effMaxBasic
  | .basic1 => leaf1Row s.cfg
  | .basic2 => leaf2Row s.cfg s.l2pos
  | .basic3 => leaf3Row s.cfg
  | .basic4 => leaf4Row s.cfg inEcx
  | .basic5 => leaf5Row s.cfg
  | .ext0 => ext0Row s.cfg
  | .ext1 => ext1Row s.cfg
  | .ext2 => brandRow s.cfg 0 (by decide)
  | .ext3 => brandRow s.cfg 16 (by decide)
  | .ext4 => brandRow s.cfg 32 (by decide)
  | .ext5 => zeroRow
  | .ext6 => ext6Row s.cfg
  | .ext7 => zeroRow
  | .ext8 => zeroRow
  | .noContent => noContentRow

/-- The value a register receives: the row's, or the free value of this execution. -/
def LeafWord.resolve (w : LeafWord) (slot : FreeSlot) (draw : Nat) : Word :=
  match w with
  | .value v => v
  | .any => Config.anyDword slot draw

/-- The four register values of a row at one execution. -/
def LeafRow.resolve (r : LeafRow) (draw : Nat) : Quad where
  eax := r.eax.resolve .eax draw
  ebx := r.ebx.resolve .ebx draw
  ecx := r.ecx.resolve .ecx draw
  edx := r.edx.resolve .edx draw

end Sys2Proof.Machine
end

