-- ==== Sys2Proof/Machine/Cpuid.lean ====
section
/-! DEFINITION. The meaning of CPUID (spec/40_cpuid_instruction.md R46): the leaf's values, the
microcode signature (R54), the leaf-2 position (R20), serialisation (R53) and the program counter. -/

namespace Sys2Proof.Machine

/-- R20, R18: the leaf-2 position after an execution. One that selects leaf 2 with more than one image
moves it, to one of the images; which one is a free value (R83; log entry 11). Nothing else moves
it. -/
def State.nextLeaf2Position (s : State) : Nat :=
  if s.selectedLeaf = 2 ∧ 1 < s.cfg.leaf2Count then
    Config.leaf2Next s.draws % s.cfg.leaf2Count
  else s.l2pos

/-- R54: IA32_BIOS_SIGN_ID after an execution. With the microcode update facility it holds the update
signature in bits 63:32 and a free value in bits 31:0 (D10; log entry 10); without it the register
is untouched. -/
def State.loadedSignature (s : State) : MsrWord :=
  if s.cfg.ucodeImpl then s.ucodeSig ++ Config.anyDword .signatureLow s.draws else s.biosSignId

/-- The four register values CPUID computes in a state (R46, R49). -/
def State.cpuidResult (s : State) : Quad :=
  (s.leafRow s.selectedLeaf s.regs.ecx).resolve s.draws

/-- The state after CPUID on a processor that implements it, effect by effect in the order of
R46. -/
def State.afterCpuid (s : State) : State :=
  ((((s.setRegs s.cpuidResult).setLeaf2Position s.nextLeaf2Position).setBiosSignId
    s.loadedSignature).nextDraw.serialize).advancePc 2

/-- `CPUID` (R46). On a processor without it the invalid-opcode exception comes before anything else
(R56, R102). -/
def execCpuid (s : State) : Host.Outcome State Fault Refusal :=
  if s.cfg.cpuidImpl then .next s.afterCpuid else raiseInvalidOpcode

end Sys2Proof.Machine
end

