-- ==== Sys2Proof/Machine/Fetch.lean ====
section
/-! DEFINITION. Fetching and decoding the instruction at the program counter (spec/20_memory.md R24,
spec/10_state.md R9, spec/30_encoding.md R40). -/

namespace Sys2Proof.Machine

/-- The two bytes at pc and pc + 1 (R24). A fetch at FFFFFFFFH is refused (R9, D4), and so is one from
an address whose byte the machine does not hold (R24). -/
def State.fetchBytes (s : State) : Except Refusal (Byte × Byte) :=
  if s.pc = 0xFFFFFFFF then .error .fetchStraddlesTop
  else
    match s.mem.readByte s.pc.toNat, s.mem.readByte (s.pc + 1).toNat with
    | some b0, some b1 => .ok (b0, b1)
    | none, _ => .error (.noProgramText s.pc)
    | some _, none => .error (.noProgramText (s.pc + 1))

/-- The instruction at the program counter, or why there is none (R40, R42). -/
def State.fetch (s : State) : Except Refusal Instr :=
  match s.fetchBytes with
  | .error r => .error r
  | .ok (b0, b1) =>
    match decode [b0, b1] with
    | .ok (i, _) => .ok i
    | .error e => .error (.undecodable e)

/-- Instruction bytes placed at the program counter from outside the machine; memory is left alone
where they would pass the top of the address space. -/
def State.placeAtPc (s : State) (bs : List Byte) : State :=
  { s with mem := (s.mem.writeBytes s.pc bs).getD s.mem }

end Sys2Proof.Machine
end

