-- ==== Sys2Proof/Machine/Branding.lean ====
section
/-! DEFINITION. The brand string's text and frequency, and the brand index table
(spec/43_extended_leaves.md R87, spec/44_branding_software.md R96 to R99). Software's procedures, not
steps of the machine. -/

namespace Sys2Proof.Machine

/-- The text of a brand string: up to its first NUL (R87, R96). -/
def brandText (bs : List Byte) : List Byte :=
  bs.takeWhile (· != 0)

/-- The power of ten of a unit's first letter: "M", "G" or "T" (R97). -/
def unitExponent (b : Byte) : Option Nat :=
  if b = 0x4D then some 6
  else if b = 0x47 then some 9
  else if b = 0x54 then some 12
  else none

/-- The scan of R97 over the reversed text for "zHM", "zHG" or "zHT": the power of ten, and what
follows the unit in reverse order. -/
def scanUnit : List Byte → Option (Nat × List Byte)
  | [] => none
  | b :: rest =>
    match b == 0x7A, rest with
    | true, h :: m :: before =>
      match h == 0x48, unitExponent m with
      | true, some e => some (e, before)
      | _, _ => scanUnit rest
    | _, _ => scanUnit rest

/-- Whether a byte is an ASCII decimal digit. -/
def isDigit (b : Byte) : Bool :=
  decide (0x30 ≤ b) && decide (b ≤ 0x39)

/-- A decimal number that may contain a point (R97): the digits as one number, and how many stand
after the point. Any other character, or a second point, is an error (log entry 25). -/
def parseDecimal (digits fraction : Nat) (point : Bool) : List Byte → Option (Nat × Nat)
  | [] => some (digits, fraction)
  | b :: rest =>
    if isDigit b then
      parseDecimal (10 * digits + (b.toNat - 48)) (if point then fraction + 1 else fraction) point rest
    else if b = 0x2E ∧ point = false then parseDecimal digits fraction true rest
    else none

/-- A frequency: digits / 10^fractionDigits * 10^exponent hertz, exactly (R97). -/
structure Frequency where
  digits : Nat
  fractionDigits : Nat
  exponent : Nat
  deriving DecidableEq, Repr

/-- The frequency in hertz (R97), the part below one hertz dropped (there is none while there are no
more fraction digits than the unit has zeros). -/
def Frequency.hertz (f : Frequency) : Nat :=
  f.digits * 10 ^ f.exponent / 10 ^ f.fractionDigits

/-- The maximum frequency in a brand string (R97): find the unit scanning from the end, and read the
number before it back to the nearest blank; none is the procedure's "Report Error". -/
def maxFrequency (bs : List Byte) : Option Frequency :=
  match scanUnit (brandText bs).reverse with
  | none => none
  | some (e, before) =>
    let number := (before.takeWhile (· != 0x20)).reverse
    if number.any isDigit then
      (parseDecimal 0 0 false number).map fun p => ⟨p.1, p.2, e⟩
    else none

/-- What the brand index table says of an index (R99). -/
inductive BrandIndexInfo where
  /-- 00H: "This processor does not support the brand identification feature". -/
  | notSupported
  | brand (name : String)
  /-- 18H to FFH. -/
  | reserved
  /-- 05H, 0DH, 10H: the table has no row (N30). -/
  | noRow
  deriving DecidableEq, Repr

/-- "Mapping of Brand Indices and IA-32 Processor Brand Strings" (R99): the entry of an index, given
the processor signature (R60). -/
def brandIndexInfo (index : Byte) (signature : Word) : BrandIndexInfo :=
  match index.toNat with
  | 0x00 => .notSupported
  | 0x01 => .brand "Intel(R) Celeron(R) processor"
  | 0x02 => .brand "Intel(R) Pentium(R) III processor"
  | 0x03 =>
    if signature = 0x000006B1 then .brand "Intel(R) Celeron(R) processor"
    else .brand "Intel(R) Pentium(R) III Xeon(TM) processor"
  | 0x04 => .brand "Intel(R) Pentium(R) III processor"
  | 0x05 => .noRow
  | 0x06 => .brand "Mobile Intel(R) Pentium(R) III processor-M"
  | 0x07 => .brand "Mobile Intel(R) Celeron(R) processor"
  | 0x08 => .brand "Intel(R) Pentium(R) 4 processor"
  | 0x09 => .brand "Intel(R) Pentium(R) 4 processor"
  | 0x0A => .brand "Intel(R) Celeron(R) processor"
  | 0x0B =>
    if signature = 0x00000F13 then .brand "Intel(R) Xeon(TM) processor MP"
    else .brand "Intel(R) Xeon(TM) processor"
  | 0x0C => .brand "Intel(R) Xeon(TM) processor MP"
  | 0x0D => .noRow
  | 0x0E =>
    if signature = 0x00000F13 then .brand "Intel(R) Xeon(TM) processor"
    else .brand "Mobile Intel(R) Pentium(R) 4 processor-M"
  | 0x0F => .brand "Mobile Intel(R) Celeron(R) processor"
  | 0x10 => .noRow
  | 0x11 => .brand "Mobile Genuine Intel(R) processor"
  | 0x12 => .brand "Intel(R) Celeron(R) M processor"
  | 0x13 => .brand "Mobile Intel(R) Celeron(R) processor"
  | 0x14 => .brand "Intel(R) Celeron(R) processor"
  | 0x15 => .brand "Mobile Genuine Intel(R) processor"
  | 0x16 => .brand "Intel(R) Pentium(R) M processor"
  | 0x17 => .brand "Mobile Intel(R) Celeron(R) processor"
  | _ => .reserved

end Sys2Proof.Machine
end

