-- ==== Sys2Proof/Machine/CacheInfo.lean ====
section
/-! DEFINITION. What leaves 2, 4 and 80000006H say about caches and TLBs (spec/42_cache_tlb_leaf2.md
R77 to R82, spec/41_basic_leaves.md R71, R72, spec/43_extended_leaves.md R90). Software's reading of
the results, not steps of the machine. -/

namespace Sys2Proof.Machine

/-- The pages a TLB descriptor of R81 names. -/
inductive TlbPages where
  | kb4
  | mb4
  /-- "4 KByte and 2-MByte or 4-MByte pages". -/
  | kb4AndMb2OrMb4
  | kb4AndMb4
  deriving DecidableEq, Repr

/-- Whether a TLB or first-level cache holds instructions or data. -/
inductive CacheSide where
  | instruction
  | data
  deriving DecidableEq, Repr

/-- The meaning of a descriptor byte (R81). -/
inductive DescriptorInfo where
  | null
  /-- A TLB; ways where the row states them. -/
  | tlb (side : CacheSide) (pages : TlbPages) (ways : Option Nat) (entries : Nat)
  /-- A first-level cache, size in KBytes, line size in bytes. -/
  | level1 (side : CacheSide) (kBytes ways lineBytes : Nat)
  /-- A second-level or third-level cache; lines per sector where the row states them. -/
  | outer (level kBytes ways lineBytes : Nat) (linesPerSector : Option Nat)
  /-- 40H: no 2nd-level cache or, with a valid 2nd-level cache, no 3rd-level cache. -/
  | noFurtherLevel
  /-- A trace cache, size in thousands of micro-operations. -/
  | trace (kUops ways : Nat)
  | prefetching (bytes : Nat)
  deriving DecidableEq, Repr

/-- R81, rows 00H to 0CH. -/
def descriptorRows0 : List (Byte × DescriptorInfo) :=
  [(0x00, .null),
    (0x01, .tlb .instruction .kb4 (some 4) 32),
    (0x02, .tlb .instruction .mb4 (some 4) 2),
    (0x03, .tlb .data .kb4 (some 4) 64),
    (0x04, .tlb .data .mb4 (some 4) 8),
    (0x06, .level1 .instruction 8 4 32),
    (0x08, .level1 .instruction 16 4 32),
    (0x0A, .level1 .data 8 2 32),
    (0x0C, .level1 .data 16 4 32)]

/-- R81, rows 22H to 45H. -/
def descriptorRows1 : List (Byte × DescriptorInfo) :=
  [(0x22, .outer 3 512 4 64 (some 2)),
    (0x23, .outer 3 1024 8 64 (some 2)),
    (0x25, .outer 3 2048 8 64 (some 2)),
    (0x29, .outer 3 4096 8 64 (some 2)),
    (0x2C, .level1 .data 32 8 64),
    (0x30, .level1 .instruction 32 8 64),
    (0x40, .noFurtherLevel),
    (0x41, .outer 2 128 4 32 none),
    (0x42, .outer 2 256 4 32 none),
    (0x43, .outer 2 512 4 32 none),
    (0x44, .outer 2 1024 4 32 none),
    (0x45, .outer 2 2048 4 32 none)]

/-- R81, rows 50H to 72H. -/
def descriptorRows2 : List (Byte × DescriptorInfo) :=
  [(0x50, .tlb .instruction .kb4AndMb2OrMb4 none 64),
    (0x51, .tlb .instruction .kb4AndMb2OrMb4 none 128),
    (0x52, .tlb .instruction .kb4AndMb2OrMb4 none 256),
    (0x5B, .tlb .data .kb4AndMb4 none 64),
    (0x5C, .tlb .data .kb4AndMb4 none 128),
    (0x5D, .tlb .data .kb4AndMb4 none 256),
    (0x60, .level1 .data 16 8 64),
    (0x66, .level1 .data 8 4 64),
    (0x67, .level1 .data 16 4 64),
    (0x68, .level1 .data 32 4 64),
    (0x70, .trace 12 8),
    (0x71, .trace 16 8),
    (0x72, .trace 32 8)]

/-- R81, rows 78H to F1H. -/
def descriptorRows3 : List (Byte × DescriptorInfo) :=
  [(0x78, .outer 2 1024 4 64 none),
    (0x79, .outer 2 128 8 64 (some 2)),
    (0x7A, .outer 2 256 8 64 (some 2)),
    (0x7B, .outer 2 512 8 64 (some 2)),
    (0x7C, .outer 2 1024 8 64 (some 2)),
    (0x7D, .outer 2 2048 8 64 none),
    (0x7F, .outer 2 512 2 64 none),
    (0x82, .outer 2 256 8 32 none),
    (0x83, .outer 2 512 8 32 none),
    (0x84, .outer 2 1024 8 32 none),
    (0x85, .outer 2 2048 8 32 none),
    (0x86, .outer 2 512 4 64 none),
    (0x87, .outer 2 1024 8 64 none),
    (0xB0, .tlb .instruction .kb4 (some 4) 128),
    (0xB3, .tlb .data .kb4 (some 4) 128),
    (0xF0, .prefetching 64),
    (0xF1, .prefetching 128)]

/-- "Encoding of Cache and TLB Descriptors" (R81): 51 rows. -/
def descriptorTable : List (Byte × DescriptorInfo) :=
  descriptorRows0 ++ descriptorRows1 ++ descriptorRows2 ++ descriptorRows3

/-- The row of a descriptor value; none where the source has no row (R81). -/
def descriptorInfo (d : Byte) : Option DescriptorInfo :=
  descriptorTable.lookup d

/-- R78: bit 31 clear says that a register holds valid descriptors. -/
def descriptorsValid (r : Word) : Bool :=
  !r.getLsbD 31

/-- The descriptors in the bytes of a register from byte k on, without null descriptors; none of a
register that is not valid (R78, R79, R82). -/
def registerDescriptors (r : Word) (bytes : List Nat) : List Byte :=
  if descriptorsValid r then (bytes.map (byteOf r)).filter (· != 0) else []

/-- `decode_leaf2` (R82): the count in AL (R77), and the descriptors, whose order means nothing
(R80). -/
def decodeLeaf2 (q : Quad) : Nat × List Byte :=
  ((byteOf q.eax 0).toNat,
    registerDescriptors q.eax [1, 2, 3] ++ registerDescriptors q.ebx [0, 1, 2, 3] ++
      registerDescriptors q.ecx [0, 1, 2, 3] ++ registerDescriptors q.edx [0, 1, 2, 3])

/-- The values of the cache type field (R72). -/
inductive CacheType where
  | noMoreCaches
  | data
  | instruction
  | unified
  | reserved (value : Nat)
  deriving DecidableEq, Repr

/-- The cache type of EAX[4:0] (R72). -/
def cacheType (eax : Word) : CacheType :=
  match fieldNat eax 4 0 with
  | 0 => .noMoreCaches
  | 1 => .data
  | 2 => .instruction
  | 3 => .unified
  | n => .reserved n

/-- What a leaf-4 image says (R71), the starred fields with one added and no wrap (R72). -/
structure CacheParameters where
  type : CacheType
  level : Nat
  selfInitializing : Bool
  fullyAssociative : Bool
  threadsSharing : Nat
  cores : Nat
  lineSize : Nat
  partitions : Nat
  ways : Nat
  sets : Nat
  deriving DecidableEq, Repr

/-- A leaf-4 image read (R71, R72). -/
def cacheParameters (q : Quad) : CacheParameters where
  type := cacheType q.eax
  level := fieldNat q.eax 7 5
  selfInitializing := q.eax.getLsbD 8
  fullyAssociative := q.eax.getLsbD 9
  threadsSharing := fieldNat q.eax 25 14 + 1
  cores := fieldNat q.eax 31 26 + 1
  lineSize := fieldNat q.ebx 11 0 + 1
  partitions := fieldNat q.ebx 21 12 + 1
  ways := fieldNat q.ebx 31 22 + 1
  sets := q.ecx.toNat + 1

/-- The cache size in bytes of a leaf-4 image: PRESUMED, R72 gives it as general knowledge (log
entry 27). -/
def CacheParameters.sizeBytes (p : CacheParameters) : Nat :=
  p.ways * p.partitions * p.lineSize * p.sets

/-- What leaf 80000006H ECX says (R90). -/
structure L2Fields where
  lineSize : BitVec 8
  notListed : BitVec 4
  associativity : BitVec 4
  sizeKBytes : BitVec 16
  deriving DecidableEq, Repr

/-- The fields of leaf 80000006H ECX (R90). -/
def l2Fields (ecx : Word) : L2Fields where
  lineSize := ecx.extractLsb' 0 8
  notListed := ecx.extractLsb' 8 4
  associativity := ecx.extractLsb' 12 4
  sizeKBytes := ecx.extractLsb' 16 16

/-- The L2 cache size in bytes (R90). -/
def l2SizeBytes (ecx : Word) : Nat :=
  1024 * (l2Fields ecx).sizeKBytes.toNat

end Sys2Proof.Machine
end

