-- ==== Sys2Proof/Machine/Features.lean ====
section
/-! DEFINITION. The feature flags of leaf 1 (spec/41_basic_leaves.md R66, R67, R68). -/

namespace Sys2Proof.Machine

/-- The defined flags of leaf 1 ECX (R66). -/
inductive FeatureEcx where
  | sse3
  | monitor
  | dsCpl
  | est
  | tm2
  | cnxtId
  deriving DecidableEq, Repr

/-- The bit of a flag of leaf 1 ECX (R66). -/
def FeatureEcx.bit : FeatureEcx → Nat
  | .sse3 => 0
  | .monitor => 3
  | .dsCpl => 4
  | .est => 7
  | .tm2 => 8
  | .cnxtId => 10

/-- All defined flags of leaf 1 ECX. -/
def FeatureEcx.all : List FeatureEcx :=
  [.sse3, .monitor, .dsCpl, .est, .tm2, .cnxtId]

/-- The defined flags of leaf 1 EDX (R67). -/
inductive FeatureEdx where
  | fpu
  | vme
  | de
  | pse
  | tsc
  | msr
  | pae
  | mce
  | cx8
  | apic
  | sep
  | mtrr
  | pge
  | mca
  | cmov
  | pat
  | pse36
  | psn
  | clfsh
  | ds
  | acpi
  | mmx
  | fxsr
  | sse
  | sse2
  | ss
  | htt
  | tm
  | pbe
  deriving DecidableEq, Repr

/-- The bit of a flag of leaf 1 EDX (R67). -/
def FeatureEdx.bit : FeatureEdx → Nat
  | .fpu => 0
  | .vme => 1
  | .de => 2
  | .pse => 3
  | .tsc => 4
  | .msr => 5
  | .pae => 6
  | .mce => 7
  | .cx8 => 8
  | .apic => 9
  | .sep => 11
  | .mtrr => 12
  | .pge => 13
  | .mca => 14
  | .cmov => 15
  | .pat => 16
  | .pse36 => 17
  | .psn => 18
  | .clfsh => 19
  | .ds => 21
  | .acpi => 22
  | .mmx => 23
  | .fxsr => 24
  | .sse => 25
  | .sse2 => 26
  | .ss => 27
  | .htt => 28
  | .tm => 29
  | .pbe => 31

/-- All defined flags of leaf 1 EDX. -/
def FeatureEdx.all : List FeatureEdx :=
  [.fpu, .vme, .de, .pse, .tsc, .msr, .pae, .mce, .cx8, .apic, .sep, .mtrr, .pge, .mca, .cmov, .pat,
    .pse36, .psn, .clfsh, .ds, .acpi, .mmx, .fxsr, .sse, .sse2, .ss, .htt, .tm, .pbe]

/-- "A 1 indicates that the feature is supported" (R68), for leaf 1 ECX. -/
def FeatureEcx.supported (f : FeatureEcx) (ecx : Word) : Bool :=
  ecx.getLsbD f.bit

/-- "A 1 indicates that the feature is supported" (R68), for leaf 1 EDX. -/
def FeatureEdx.supported (f : FeatureEdx) (edx : Word) : Bool :=
  edx.getLsbD f.bit

/-- The flag a bit of leaf 1 ECX stands for; none for a reserved bit (R66). -/
def FeatureEcx.ofBit (n : Nat) : Option FeatureEcx :=
  FeatureEcx.all.find? fun f => f.bit == n

/-- The flag a bit of leaf 1 EDX stands for; none for a reserved bit (R67). -/
def FeatureEdx.ofBit (n : Nat) : Option FeatureEdx :=
  FeatureEdx.all.find? fun f => f.bit == n

end Sys2Proof.Machine
end

