-- ==== Sys2Proof/Machine/Version.lean ====
section
/-! DEFINITION. What leaf 1 says: the version word, and the fields of EBX (spec/41_basic_leaves.md
R60 to R65). Software's reading of the results, not steps of the machine. -/

namespace Sys2Proof.Machine

/-- The fields of the version word (R60). -/
structure VersionFields where
  steppingId : BitVec 4
  model : BitVec 4
  familyId : BitVec 4
  processorType : BitVec 2
  reservedLow : BitVec 2
  extendedModel : BitVec 4
  /-- Eight bits, 27:20: the table, not the Operation section (C1, D19). -/
  extendedFamily : BitVec 8
  reservedHigh : BitVec 4
  deriving DecidableEq, Repr

/-- The version word split (R60). -/
def versionFields (v : Word) : VersionFields where
  steppingId := v.extractLsb' 0 4
  model := v.extractLsb' 4 4
  familyId := v.extractLsb' 8 4
  processorType := v.extractLsb' 12 2
  reservedLow := v.extractLsb' 14 2
  extendedModel := v.extractLsb' 16 4
  extendedFamily := v.extractLsb' 20 8
  reservedHigh := v.extractLsb' 28 4

/-- The version word put together again. -/
def VersionFields.word (f : VersionFields) : Word :=
  f.reservedHigh ++ f.extendedFamily ++ f.extendedModel ++ f.reservedLow ++ f.processorType ++
    f.familyId ++ f.model ++ f.steppingId

/-- The source's third table (R61). -/
inductive ProcessorType where
  | originalOem
  | overDrive
  | dualProcessor
  | intelReserved
  deriving DecidableEq, Repr

/-- The processor type of bits 13:12 (R61). -/
def processorType (v : Word) : ProcessorType :=
  match (versionFields v).processorType.toNat with
  | 0 => .originalOem
  | 1 => .overDrive
  | 2 => .dualProcessor
  | _ => .intelReserved

/-- Displayed model (R62): the extended model above the model, 8 bits. -/
def displayedModel (v : Word) : BitVec 8 :=
  ((v.extractLsb' 16 4).setWidth 8 <<< 4) + (v.extractLsb' 4 4).setWidth 8

/-- Displayed family (R62), as the source prints it: with bits 23:20 of the extended family (C14;
log entry 28). -/
def displayedFamily (v : Word) : BitVec 8 :=
  ((v.extractLsb' 20 4).setWidth 8 <<< 4) + (v.extractLsb' 8 4).setWidth 8

/-- EBX of leaf 1 split (R63). -/
structure Leaf1Ebx where
  brandIndex : Byte
  clflushLine : Byte
  logicalCount : Byte
  apicId : Byte
  deriving DecidableEq, Repr

/-- The four bytes of leaf 1 EBX (R63). -/
def leaf1Ebx (w : Word) : Leaf1Ebx :=
  ⟨byteOf w 0, byteOf w 1, byteOf w 2, byteOf w 3⟩

/-- The CLFLUSH line size in bytes (R64): 8 times the field, with no wrap. -/
def clflushLineBytes (ebx : Word) : Nat :=
  8 * (leaf1Ebx ebx).clflushLine.toNat

end Sys2Proof.Machine
end

