-- ==== Sys2Proof/Machine/Software.lean ====
section
/-! DEFINITION. The procedures by which software uses CPUID (spec/44_branding_software.md,
spec/70_reset_and_hazards.md R121, R124): functions over the machine's state that load EAX, execute
CPUID and read the registers. The instructions that load EAX or move EFLAGS are not in the source, so
a procedure sets those registers directly. -/

namespace Sys2Proof.Machine

/-- Detecting CPUID with the ID flag (R94): invert the flag and see whether it changed; if it did,
write the original back. -/
def detectCpuid (s : State) : Bool × State :=
  let changed := s.writeIdFlag (!s.idFlag)
  if changed.idFlag != s.idFlag then (true, changed.writeIdFlag s.idFlag) else (false, changed)

/-- EAX loaded with an input value and CPUID executed; none when it raises an exception. -/
def State.cpuidWith (s : State) (input : Word) : Option State :=
  match execCpuid (s.writeReg .eax input) with
  | .next t => some t
  | .fault _ => none
  | .refused _ => none

/-- The highest basic input the processor reports (R58; R121 step 2). -/
def reportedMaxBasic (s : State) : Option Word :=
  (s.cpuidWith 0).map fun t => t.regs.eax

/-- The EAX that input 80000000H returns (R84; R121 step 7). -/
def reportedMaxExt (s : State) : Option Word :=
  (s.cpuidWith 0x80000000).map fun t => t.regs.eax

/-- The brand-string support test (R95), with the input corrected to 80000000H (C6). -/
def brandStringSupported (s : State) : Option Bool :=
  (reportedMaxExt s).map fun eax => decide (0x80000004 ≤ eax)

/-- The sixteen bytes of EAX, EBX, ECX, EDX, each register low byte first (R96). -/
def quadBytes (q : Quad) : List Byte :=
  dwordBytes q.eax ++ dwordBytes q.ebx ++ dwordBytes q.ecx ++ dwordBytes q.edx

/-- Reading the brand string (R96): leaves 80000002H, 80000003H, 80000004H in that order. -/
def readBrandString (s : State) : Option (List Byte) :=
  match s.cpuidWith 0x80000002 with
  | none => none
  | some t =>
    match t.cpuidWith 0x80000003 with
    | none => none
    | some u =>
      match u.cpuidWith 0x80000004 with
      | none => none
      | some v => some (quadBytes t.regs ++ quadBytes u.regs ++ quadBytes v.regs)

/-- The vendor string as software reads it from leaf 0: EBX, EDX, ECX (R58, R25). -/
def readVendorString (s : State) : Option (List Byte) :=
  (s.cpuidWith 0).map fun t => dwordBytes t.regs.ebx ++ dwordBytes t.regs.edx ++ dwordBytes t.regs.ecx

/-- Looking the brand index up (R98, R99): the index and the signature are leaf 1's. -/
def readBrandIndex (s : State) : Option BrandIndexInfo :=
  (s.cpuidWith 1).map fun t => brandIndexInfo (leaf1Ebx t.regs.ebx).brandIndex t.regs.eax

/-- The ways to name a processor, in order of preference (R100). -/
inductive BrandMethod where
  | brandString
  | brandIndex
  | familyModelStepping
  deriving DecidableEq, Repr

/-- The method to use (R100): the brand string if R95 says it is supported, else the brand index if
it is not 0, else family, model and stepping. -/
def chooseBrandMethod (s : State) : Option BrandMethod :=
  match brandStringSupported s with
  | none => none
  | some true => some .brandString
  | some false =>
    (s.cpuidWith 1).map fun t =>
      if (leaf1Ebx t.regs.ebx).brandIndex ≠ 0 then .brandIndex else .familyModelStepping

/-- The PSN flag, leaf 1 EDX bit 18 (R70; R121 step 5). -/
def psnFlag (s : State) : Option Bool :=
  (s.cpuidWith 1).map fun t => FeatureEdx.psn.supported t.regs.edx

/-- What software owes before it requests a leaf (R101 points 2 and 4; R121 steps 2, 5, 6, 7): a basic
leaf at most the EAX of leaf 0, leaf 3 with the PSN flag, an extended leaf at most an EAX of leaf
80000000H that is itself at least 80000000H. -/
def requestChecked (s : State) (input : Word) : Bool :=
  if (0x80000000 : Word) ≤ input then
    match reportedMaxExt s with
    | none => false
    | some m => decide (0x80000000 ≤ m) && decide (input ≤ m)
  else
    match reportedMaxBasic s with
    | none => false
    | some m => decide (input ≤ m) && (input != 3 || psnFlag s == some true)

/-- Reading the microcode signature (R124): execute CPUID, then read the upper DWORD of
IA32_BIOS_SIGN_ID. On a processor without the microcode update facility, where R54 says the register
may not exist, it answers what the register held before: DESIGN CHOICE, log entry 35. -/
def readUpdateSignature (s : State) (input : Word) : Option Word :=
  (s.cpuidWith input).map State.updateSignature

/-- Enumerating caches with leaf 4 (R73): indices 0, 1, 2, ... until the type is "no more caches", at
most `fuel` of them, each execution in the state the one before left. -/
def enumerateCaches (fuel : Nat) (index : Word) (s : State) : List CacheParameters :=
  match fuel with
  | 0 => []
  | n + 1 =>
    match (s.writeReg .ecx index).cpuidWith 4 with
    | none => []
    | some t =>
      let p := cacheParameters t.regs
      if p.type = .noMoreCaches then [] else p :: enumerateCaches n (index + 1) t

end Sys2Proof.Machine
end

