-- ==== Sys2Proof/Safety.lean ====
section
/-! DEFINITION. What a good state, a frame and a safe request are, in the terms the statements
use. -/

namespace Sys2Proof.Safety
open Sys2Proof.Machine

/-- A state a machine can be in: memory in canonical form, a configuration that meets the constraints
of R4, and a leaf-2 position below the number of images (R20). -/
def Inv (s : State) : Prop :=
  s.mem.wf = true ∧ s.cfg.wf = true ∧ s.l2pos < s.cfg.leaf2Count

/-- What CPUID leaves alone on every execution (R18): the configuration, EFLAGS, IA32_MISC_ENABLE, the
update signature, every byte of memory, and every register the spec only names. -/
structure Untouched (s t : State) : Prop where
  cfg : t.cfg = s.cfg
  eflags : t.eflags = s.eflags
  miscEnable : t.miscEnable = s.miscEnable
  ucodeSig : t.ucodeSig = s.ucodeSig
  named : t.named = s.named
  byte : ∀ a, t.mem.readByte a = s.mem.readByte a

/-- Two states that agree on everything CPUID's results depend on (R51): the configuration, EAX, ECX,
the BOOT_NT4 bit, the leaf-2 position, and the free values drawn (the counter). -/
structure SameInputs (s t : State) : Prop where
  cfg : t.cfg = s.cfg
  eax : t.regs.eax = s.regs.eax
  ecx : t.regs.ecx = s.regs.ecx
  bootNt4 : t.bootNt4 = s.bootNt4
  l2pos : t.l2pos = s.l2pos
  draws : t.draws = s.draws

/-- An input value above the maxima (R43): above the effective basic maximum, and no extended leaf
that the processor recognises. -/
def OutOfRange (s : State) (v : Word) : Prop :=
  s.effMaxBasic.toNat < v.toNat ∧
    ¬(s.cfg.extImpl = true ∧ 0x80000000 ≤ v.toNat ∧ v.toNat ≤ s.cfg.maxExt.toNat)

/-- The bytes at the program counter: two of them held, below the top of the address space. -/
def TextAt (s : State) (b0 b1 : Byte) : Prop :=
  s.pc ≠ 0xFFFFFFFF ∧ s.mem.readByte s.pc.toNat = some b0 ∧ s.mem.readByte (s.pc + 1).toNat = some b1

/-- A text names a unit of frequency (R97): "MHz", "GHz" or "THz" stands somewhere in it. -/
abbrev UnitIn (text : List Byte) : Prop :=
  ∃ u ∈ [(0x4D : Byte), 0x47, 0x54], [u, 0x48, 0x7A] <:+: text

/-- n steps, stopping at the first fault or refusal. It is the host's `core.run`, over `State` itself
(Sys2Proof/Laws/Cpuid.lean, `runSteps_eq_core_run`). -/
def runSteps : Nat → State → Host.Outcome State Fault Refusal
  | 0, s => .next s
  | n + 1, s =>
    match step s with
    | .next t => runSteps n t
    | .fault r => .fault r
    | .refused r => .refused r

end Sys2Proof.Safety
end

