-- ==== Sys2Proof/Certificates/Slice0/Obligations.lean ====
section
/-! DEFINITION. The statements for the provers. -/

open Sys2Proof Sys2Proof.Machine Sys2Proof.Safety

/-! ## Encoding and stepping -/

/-- The words of the spec's encoding (R37, 95 E1 to E4): `0F A2` is CPUID and is what CPUID encodes
to; `0F A3`, `0F A0`, `A2 0F`, a lone `0F`, and `66 0F A2` are rejected. -/
def Obligations.OpcodeBytesDecodeToCpuid : Prop :=
  encode .cpuid = [0x0F, 0xA2] ∧
  decode [0x0F, 0xA2] = .ok (.cpuid, []) ∧
  decode [0x0F, 0xA2, 0x0F, 0xA2] = .ok (.cpuid, [0x0F, 0xA2]) ∧
  decode [0x0F, 0xA3] = .error (.noRow 0x0F 0xA3) ∧
  decode [0x0F, 0xA0] = .error (.noRow 0x0F 0xA0) ∧
  decode [0xA2, 0x0F] = .error (.noRow 0xA2 0x0F) ∧
  decode [0x0F] = .error .tooShort ∧
  decode [0x66, 0x0F, 0xA2] = .error (.prefixed 0x66)

/-- Match and mask: with b the first byte shifted left by 8 and joined with the second, a byte
sequence begins with CPUID exactly when b & FFFFH = 0FA2H (30_encoding.md section 1; R38, which the
spec marks as its own derivation from R37 and R24). -/
def Obligations.ExactlyTheOpcodePatternDecodes : Prop :=
  ∀ (b0 b1 : Byte) (rest : List Byte),
    (∃ after, decode (b0 :: b1 :: rest) = .ok (.cpuid, after)) ↔
      (b0.toNat <<< 8 ||| b1.toNat) &&& 0xFFFF = 0x0FA2

/-- Decode and encode agree, both ways: the bytes of a well-formed instruction decode to it and leave
what follows, and whatever decodes is well formed and was exactly the instruction's bytes, two of
them (R37, R40). -/
def Obligations.DecodeAndEncodeAgree : Prop :=
  (∀ (i : Instr) (rest : List Byte), i.wf = true → decode (encode i ++ rest) = .ok (i, rest)) ∧
  (∀ (bytes rest : List Byte) (i : Instr), decode bytes = .ok (i, rest) →
    i.wf = true ∧ bytes = encode i ++ rest ∧ bytes.length = rest.length + 2)

/-- Two first bytes other than `0F A2` make the step a refusal that names them as undecodable: 0FH
followed by any byte but A2H (R40, 95 E3), and any other byte first, every prefix byte among them
(R42, D3: the spec's own decision). -/
def Obligations.OtherFirstBytesAreRefused : Prop :=
  ∀ (s : State) (b0 b1 : Byte), TextAt s b0 b1 → ¬(b0 = 0x0F ∧ b1 = 0xA2) →
    ∃ e, step s = .refused (.undecodable e)

/-- A step runs the decoded instruction. CPUID's meaning moves the program counter itself, so the
step adds nothing around it. -/
def Obligations.StepRunsTheDecodedInstruction : Prop :=
  ∀ (s : State) (b0 b1 : Byte) (i : Instr),
    TextAt s b0 b1 → decode [b0, b1] = .ok (i, []) → i.wf = true → step s = exec i s

/-- Where a fetch is refused (10_state.md R9 and 20_memory.md R24, decisions D4 and D1 of the spec;
log entries 16 and 18): at FFFFFFFFH, and where a byte of the instruction is not held. -/
def Obligations.FetchIsRefusedAtTheTopAndWithoutText : Prop :=
  (∀ s : State, s.pc = 0xFFFFFFFF → step s = .refused .fetchStraddlesTop) ∧
  (∀ s : State, s.pc ≠ 0xFFFFFFFF → s.mem.readByte s.pc.toNat = none →
    step s = .refused (.noProgramText s.pc)) ∧
  (∀ (s : State) (b : Byte), s.pc ≠ 0xFFFFFFFF → s.mem.readByte s.pc.toNat = some b →
    s.mem.readByte (s.pc + 1).toNat = none → step s = .refused (.noProgramText (s.pc + 1)))

/-- The word of spec/opcode_table.json, placed at the program counter, is what the next step runs,
from every state and at every program counter that can hold it, and the placing moves no other byte.
Placing a word is the model's own device: `withFetchWord` stands for the load of a program from
outside (DESIGN CHOICE, log entry 26), and the order of the word's bytes is read from the table's
byte_order_note (DEDUCED, log entry 29). -/
def Obligations.PlacedOpcodeWordRunsNext : Prop :=
  ∀ s : State, s.pc ≠ 0xFFFFFFFF →
    step (s.withFetchWord 16 0x0FA2) = exec .cpuid (s.withFetchWord 16 0x0FA2) ∧
    ∀ a : Nat, a ≠ s.pc.toNat → a ≠ (s.pc + 1).toNat →
      (s.withFetchWord 16 0x0FA2).mem.readByte a = s.mem.readByte a

/-- Stores made before CPUID are seen by the fetch after it: bytes stored where the next instruction
stands are the bytes fetched after CPUID (R32, R35). -/
def Obligations.FetchAfterCpuidSeesEarlierStores : Prop :=
  ∀ (s t : State) (m : Memory) (b0 b1 : Byte),
    s.mem.writeBytes (s.pc + 2) [b0, b1] = some m → exec .cpuid { s with mem := m } = .next t →
      t.fetchBytes = .ok (b0, b1)

/-! ## The instruction as a whole -/

/-- With CPUID implemented it completes, whatever the registers hold; without it, it raises the
invalid-opcode exception (R56). -/
def Obligations.CompletesExactlyWhereImplemented : Prop :=
  ∀ s : State,
    (s.cfg.cpuidImpl = true → ∃ t, exec .cpuid s = .next t) ∧
    (s.cfg.cpuidImpl = false → exec .cpuid s = .fault .invalidOpcode)

/-- A step faults exactly when it fetches `0F A2` on a processor without CPUID, and then with `#UD`:
there is no other exception (R102, R103). -/
def Obligations.OnlyFaultIsInvalidOpcodeWithoutCpuid : Prop :=
  ∀ (s : State) (r : Fault),
    step s = .fault r ↔ TextAt s 0x0F 0xA2 ∧ s.cfg.cpuidImpl = false ∧ r = .invalidOpcode

/-- What CPUID leaves alone (R18, marked by the spec as derived): the configuration, every flag,
IA32_MISC_ENABLE, the update signature, every byte of memory and every register the spec only names;
IA32_BIOS_SIGN_ID without the microcode facility; the leaf-2 position unless leaf 2 is selected with
more than one image. The program counter moves on by 2. -/
def Obligations.CpuidFrame : Prop :=
  ∀ s : State, s.cfg.cpuidImpl = true → ∃ t, exec .cpuid s = .next t ∧
    t.pc = s.pc + 2 ∧ Untouched s t ∧
    (s.cfg.ucodeImpl = false → t.biosSignId = s.biosSignId) ∧
    (¬(s.selectedLeaf = 2 ∧ 1 < s.cfg.leaf2Count) → t.l2pos = s.l2pos)

/-- CPUID reads no flag and writes no flag (40_cpuid_instruction.md section 3, R52): EFLAGS is the same
after as before, and another EFLAGS before gives the same state but for EFLAGS. The second clause
equates whole states, and where that equates one free value with itself it is the model's choice and
not R52's: a Reserved register, which R6 puts under no law (DESIGN CHOICE, log entry 9); bits 31:0 of
IA32_BIOS_SIGN_ID, any value by decision D10 of the spec (DESIGN CHOICE, log entry 10); and the next
leaf-2 position where there are several images (DESIGN CHOICE, log entry 11). -/
def Obligations.CpuidReadsAndWritesNoFlag : Prop :=
  ∀ (s : State) (flags : Word), s.cfg.cpuidImpl = true → ∃ t, exec .cpuid s = .next t ∧
    t.eflags = s.eflags ∧
    exec .cpuid { s with eflags := flags } = .next { t with eflags := flags }

/-- The inputs CPUID ignores (R51; decisions D8 and D18 of the spec): EBX and EDX always, ECX unless
leaf 4 is selected, and the registers the spec only names. The clauses equate whole states, and where
that equates one free value with itself it is the model's choice and not R51's, since the counter
alone draws it: a Reserved register (DESIGN CHOICE, log entry 9); bits 31:0 of IA32_BIOS_SIGN_ID, any
value by decision D10 of the spec (DESIGN CHOICE, log entry 10); and the next leaf-2 position where
there are several images (DESIGN CHOICE, log entry 11). -/
def Obligations.IgnoredInputsDoNotMatter : Prop :=
  ∀ s : State, s.cfg.cpuidImpl = true → ∃ t, exec .cpuid s = .next t ∧
    (∀ b d : Word, exec .cpuid ((s.writeReg .ebx b).writeReg .edx d) = .next t) ∧
    (s.selectedLeaf ≠ 4 → ∀ c : Word, exec .cpuid (s.writeReg .ecx c) = .next t) ∧
    (∀ n : NamedState, exec .cpuid { s with named := n } = .next { t with named := n })

/-- The microcode signature (R54): with the update facility, bits 63:32 of IA32_BIOS_SIGN_ID are the
update signature after every CPUID, and software that executes CPUID with any input and then reads the
upper DWORD gets it (70_reset_and_hazards.md section 3); without the facility the register is as
before. -/
def Obligations.CpuidLoadsTheUpdateSignature : Prop :=
  ∀ s : State, s.cfg.cpuidImpl = true →
    (∃ t, exec .cpuid s = .next t ∧
      (s.cfg.ucodeImpl = true → t.biosSignId.toNat / 2 ^ 32 = s.ucodeSig.toNat) ∧
      (s.cfg.ucodeImpl = false → t.biosSignId = s.biosSignId)) ∧
    (s.cfg.ucodeImpl = true → ∀ input : Word, readUpdateSignature s input = some s.ucodeSig)

/-- Repeatability (R57, marked by the spec as derived): two executions on one processor, with one
value of BOOT_NT4, one leaf-2 image, the same selected leaf and for leaf 4 the same index, give the
same value to every register the leaf's row fills from the configuration. -/
def Obligations.IdentificationDataIsRepeatable : Prop :=
  ∀ (s t s' t' : State) (r : Reg) (w : Word),
    t.cfg = s.cfg → t.bootNt4 = s.bootNt4 → s.cfg.leaf2More = [] →
    t.selectedLeaf = s.selectedLeaf → (s.selectedLeaf = 4 → t.regs.ecx = s.regs.ecx) →
    exec .cpuid s = .next s' → exec .cpuid t = .next t' →
    (s.leafRow s.selectedLeaf s.regs.ecx).word r = .value w →
      s'.readReg r = w ∧ t'.readReg r = w

/-! ## Which leaf an input selects -/

/-- Leaf selection (40_cpuid_instruction.md section 2; decision D5 of the spec, log entry 13), as
unsigned numbers: up to the effective basic maximum the input itself, an extended input up to MAX_EXT
itself, and otherwise the highest basic leaf. -/
def Obligations.InputSelectsItselfOrTheHighestBasicLeaf : Prop :=
  ∀ (s : State) (v : Word),
    (v.toNat ≤ s.effMaxBasic.toNat → s.selectLeaf v = v) ∧
    (s.cfg.extImpl = true → 0x80000000 ≤ v.toNat → v.toNat ≤ s.cfg.maxExt.toNat →
      s.selectLeaf v = v) ∧
    (OutOfRange s v → s.selectLeaf v = s.effMaxBasic)

/-- An input above the maxima behaves exactly as if EAX had held the highest basic input (R47; D5, log
entry 13): the whole outcome is the same, on every processor. Where that equates one free value with
itself it is the model's choice: the Reserved registers of leaf 3 and of leaves without content
(DESIGN CHOICE, log entry 9); bits 31:0 of IA32_BIOS_SIGN_ID, any value by decision D10 of the spec
(DESIGN CHOICE, log entry 10); and the next leaf-2 position where the highest basic leaf is 2 and has
several images (DESIGN CHOICE, log entry 11). -/
def Obligations.OutOfRangeInputActsAsTheHighestBasicLeaf : Prop :=
  ∀ (s : State) (v : Word), OutOfRange s v →
    exec .cpuid (s.writeReg .eax v) = exec .cpuid (s.writeReg .eax s.effMaxBasic)

/-- BOOT_NT4 (R48; the reading of "not visible" is decision D9 of the spec, log entry 14), whatever
MAX_BASIC is. Set, on a processor that has the bit: leaf 0 reports the smaller of MAX_BASIC and 3,
inputs up to that number select themselves, those above it up to 7FFFFFFFH act as it, and extended
leaves are still selected. Clear, or on a processor without the bit: leaf 0 reports MAX_BASIC and
inputs up to it select themselves. "Act as" equates whole outcomes; where that equates one free value
with itself it is the model's choice: the Reserved registers of leaf 3 (DESIGN CHOICE, log entry 9);
bits 31:0 of IA32_BIOS_SIGN_ID, any value by decision D10 of the spec (DESIGN CHOICE, log entry 10);
and the next leaf-2 position where MAX_BASIC is 2 and leaf 2 has several images (DESIGN CHOICE, log
entry 11). -/
def Obligations.BootNt4HidesBasicLeavesAboveThree : Prop :=
  ∀ s : State, s.cfg.cpuidImpl = true →
    (s.cfg.bootNt4Impl = true → s.bootNt4 = true →
      (∃ t, exec .cpuid (s.writeReg .eax 0) = .next t ∧
        t.regs.eax.toNat = min s.cfg.maxBasic.toNat 3) ∧
      (∀ v : Word, v.toNat ≤ min s.cfg.maxBasic.toNat 3 → s.selectLeaf v = v) ∧
      (∀ v : Word, min s.cfg.maxBasic.toNat 3 < v.toNat → v.toNat ≤ 0x7FFFFFFF →
        exec .cpuid (s.writeReg .eax v) =
          exec .cpuid (s.writeReg .eax (BitVec.ofNat 32 (min s.cfg.maxBasic.toNat 3)))) ∧
      (∀ v : Word, s.cfg.extImpl = true → 0x80000000 ≤ v.toNat → v.toNat ≤ s.cfg.maxExt.toNat →
        s.selectLeaf v = v)) ∧
    (s.cfg.bootNt4Impl = false ∨ s.bootNt4 = false →
      (∃ t, exec .cpuid (s.writeReg .eax 0) = .next t ∧ t.regs.eax = s.cfg.maxBasic) ∧
      (∀ v : Word, v.toNat ≤ s.cfg.maxBasic.toNat → s.selectLeaf v = v))

/-- Which basic leaves each processor row has (R75, marked by the spec as derived from R2 and R47), with
BOOT_NT4 clear: an input at most the row's maximum selects itself, and any other input below
80000000H selects the row's maximum. The leaves and the two maxima of the eight rows are those of the
tables of R75 and R2. -/
def Obligations.BasicLeavesOfEachProcessorRow : Prop :=
  (∀ (s : State) (r : ProcessorRow) (m v : Word),
    s.cfg.maximaOfRow r = true → r.maxBasic = some m → s.bootNt4 = false →
    v.toNat < 0x80000000 →
    (v.toNat ∈ r.leavesPresent → s.selectLeaf v = v) ∧
    (v.toNat ∉ r.leavesPresent → s.selectLeaf v = m)) ∧
  ([.earlierIntel486, .laterIntel486OrPentium, .pentiumProPentiumIIOrCeleron, .pentiumIII, .pentium4,
      .intelXeon, .pentiumM, .pentium4HyperThreading] : List ProcessorRow).map
      (fun r => (r.leavesPresent, r.maxBasic, r.maxExt)) =
    [([], none, none), ([0, 1], some 0x01, none), ([0, 1, 2], some 0x02, none),
      ([0, 1, 2, 3], some 0x03, none), ([0, 1, 2], some 0x02, some 0x80000004),
      ([0, 1, 2], some 0x02, some 0x80000004), ([0, 1, 2], some 0x02, some 0x80000004),
      ([0, 1, 2, 3, 4, 5], some 0x05, some 0x80000008)]

/-- A processor of a row without extended leaves (R93; decision D21 of the spec, log entry 31): every
input from 80000000H on acts as the highest basic input. That equates whole outcomes, and where it
equates one free value with itself it is the model's choice: leaf 3's Reserved registers on the
Pentium III row (DESIGN CHOICE, log entry 9); bits 31:0 of IA32_BIOS_SIGN_ID, any value by decision
D10 of the spec (DESIGN CHOICE, log entry 10); and the next leaf-2 position on a row whose maximum is
2, where there are several images (DESIGN CHOICE, log entry 11). -/
def Obligations.NoExtendedLeavesMeansHighestBasicLeaf : Prop :=
  ∀ (s : State) (r : ProcessorRow) (v : Word),
    s.cfg.maximaOfRow r = true → r.maxExt = none → s.cfg.cpuidImpl = true → 0x80000000 ≤ v.toNat →
      exec .cpuid (s.writeReg .eax v) = exec .cpuid (s.writeReg .eax s.effMaxBasic)

/-! ## What each leaf returns -/

/-- Leaf 0 (R58): EAX is the highest basic input, MAX_BASIC while BOOT_NT4 is clear; EBX, EDX, ECX hold
bytes 0 to 3, 4 to 7 and 8 to 11 of the vendor string, first character lowest; for "GenuineIntel"
they are 756E6547H, 49656E69H, 6C65746EH. -/
def Obligations.LeafZeroReturnsMaximumAndVendor : Prop :=
  ∀ s : State, s.cfg.cpuidImpl = true → s.regs.eax = 0 → ∃ t, exec .cpuid s = .next t ∧
    t.regs.eax = s.effMaxBasic ∧
    (s.bootNt4 = false → t.regs.eax = s.cfg.maxBasic) ∧
    dwordBytes t.regs.ebx = s.cfg.vendor.toList.take 4 ∧
    dwordBytes t.regs.edx = (s.cfg.vendor.toList.drop 4).take 4 ∧
    dwordBytes t.regs.ecx = s.cfg.vendor.toList.drop 8 ∧
    (s.cfg.vendor = Config.genuineIntel →
      t.regs.ebx = 0x756E6547 ∧ t.regs.edx = 0x49656E69 ∧ t.regs.ecx = 0x6C65746E)

/-- Only input 0 selects leaf 0: no input above the maxima is ever redirected to it, since MAX_BASIC is
at least 1 (R58's corner case, which the spec marks as derived). -/
def Obligations.OnlyInputZeroSelectsLeafZero : Prop :=
  ∀ (s : State) (v : Word), s.cfg.cpuidImpl = true → s.cfg.wf = true →
    (s.selectLeaf v = 0 ↔ v = 0)

/-- Leaf 1 (R59, R63): EAX the version word, EBX from the low byte up the brand index, CLFLUSH line
size, logical processor count and APIC ID, ECX and EDX the feature words. -/
def Obligations.LeafOneReturnsVersionAndFeatures : Prop :=
  ∀ s : State, s.cfg.cpuidImpl = true → s.selectedLeaf = 1 → ∃ t, exec .cpuid s = .next t ∧
    t.regs.eax = s.cfg.version ∧
    dwordBytes t.regs.ebx =
      [s.cfg.brandIndex, s.cfg.clflushLine, s.cfg.logicalCount, s.cfg.apicId] ∧
    t.regs.ecx = s.cfg.featEcx ∧ t.regs.edx = s.cfg.featEdx

/-- The CLFLUSH line size (R64): after leaf 1 the second byte of EBX, times 8, is the size in bytes,
at most 2040. -/
def Obligations.ClflushLineSizeIsEightTimesTheField : Prop :=
  ∀ s : State, s.cfg.cpuidImpl = true → s.selectedLeaf = 1 → ∃ t, exec .cpuid s = .next t ∧
    clflushLineBytes t.regs.ebx = 8 * s.cfg.clflushLine.toNat ∧
    clflushLineBytes t.regs.ebx ≤ 2040

/-- Leaf 2 with one image (R76): the four registers are that image, at every execution, and the
position does not move. -/
def Obligations.LeafTwoReturnsItsOnlyImage : Prop :=
  ∀ s : State, s.cfg.cpuidImpl = true → s.selectedLeaf = 2 → s.cfg.leaf2More = [] →
    ∃ t, exec .cpuid s = .next t ∧ t.regs = s.cfg.leaf2First ∧ t.l2pos = s.l2pos

/-- Leaf 2 with any number of images: the four registers are one of them, AL is their number on a
well-formed configuration (R77), and the next position is again one of theirs. That more than one is
admitted, with a free choice among them, is the model's choice by the last sentences of R83 (log
entry 11). -/
def Obligations.LeafTwoReturnsOneOfItsImages : Prop :=
  ∀ s : State, s.cfg.cpuidImpl = true → s.selectedLeaf = 2 → ∃ t, exec .cpuid s = .next t ∧
    t.regs ∈ s.cfg.leaf2Images ∧
    (s.cfg.wf = true → (byteOf t.regs.eax 0).toNat = s.cfg.leaf2Images.length) ∧
    (s.l2pos < s.cfg.leaf2Count → t.l2pos < s.cfg.leaf2Count)

/-- Leaf 3 (R69): it completes on every processor that selects it; where the serial number is
available ECX holds bits 31:0 and EDX bits 63:32. EAX and EBX, and elsewhere ECX and EDX, are free
values of which nothing is said. -/
def Obligations.LeafThreeReturnsTheSerialNumber : Prop :=
  ∀ s : State, s.cfg.cpuidImpl = true → s.selectedLeaf = 3 → ∃ t, exec .cpuid s = .next t ∧
    t.pc = s.pc + 2 ∧
    (s.cfg.psnImpl = true → t.regs.ecx = s.cfg.psnLow ∧ t.regs.edx = s.cfg.psnHigh)

/-- Leaf 4 (R71; that ECX is the index is decision D8 of the spec, log entry 12): the image of the
index in ECX, with EDX 0 on a well-formed configuration. -/
def Obligations.LeafFourReturnsTheIndexedCache : Prop :=
  ∀ s : State, s.cfg.cpuidImpl = true → s.selectedLeaf = 4 → ∃ t, exec .cpuid s = .next t ∧
    t.regs = s.cfg.leaf4At s.regs.ecx ∧ (s.cfg.wf = true → t.regs.edx = 0)

/-- Leaf 5 (R74): the monitor-line sizes in bits 15:0 of EAX and EBX with zeros above them, ECX and
EDX 0. -/
def Obligations.LeafFiveReturnsMonitorLineSizes : Prop :=
  ∀ s : State, s.cfg.cpuidImpl = true → s.selectedLeaf = 5 → ∃ t, exec .cpuid s = .next t ∧
    t.regs.eax.toNat = s.cfg.monMin.toNat ∧ t.regs.ebx.toNat = s.cfg.monMax.toNat ∧
    t.regs.ecx = 0 ∧ t.regs.edx = 0

/-- Leaves 80000000H and 80000001H (R84, R85): EAX is MAX_EXT, or the extended signature; the other
registers are free values of which nothing is said. -/
def Obligations.ExtendedMaximumAndSignatureLeaves : Prop :=
  ∀ s : State, s.cfg.cpuidImpl = true →
    (s.selectedLeaf = 0x80000000 → ∃ t, exec .cpuid s = .next t ∧ t.regs.eax = s.cfg.maxExt) ∧
    (s.selectedLeaf = 0x80000001 → ∃ t, exec .cpuid s = .next t ∧ t.regs.eax = s.cfg.extSig)

/-- Leaves 80000002H to 80000004H (R86): the i-th of them returns characters 16i to 16i + 15 of the
brand string in EAX, EBX, ECX, EDX, first character lowest. -/
def Obligations.BrandStringLeaves : Prop :=
  ∀ (s : State) (i : Nat), i < 3 → s.cfg.cpuidImpl = true →
    s.selectedLeaf.toNat = 0x80000002 + i → ∃ t, exec .cpuid s = .next t ∧
      quadBytes t.regs = (s.cfg.brandString.toList.drop (16 * i)).take 16

/-- Leaves 80000005H, 80000007H and 80000008H (R89, R91, R92): all four registers 0. -/
def Obligations.ReservedExtendedLeavesReturnZero : Prop :=
  ∀ s : State, s.cfg.cpuidImpl = true →
    (s.selectedLeaf = 0x80000005 ∨ s.selectedLeaf = 0x80000007 ∨ s.selectedLeaf = 0x80000008) →
    ∃ t, exec .cpuid s = .next t ∧ t.regs = ⟨0, 0, 0, 0⟩

/-- Leaf 80000006H (R90): the L2 information in ECX and zeros elsewhere; the line size is its bits 7:0,
the associativity code its bits 15:12, and the size in bytes 1024 times its bits 31:16. -/
def Obligations.L2InformationLeaf : Prop :=
  ∀ s : State, s.cfg.cpuidImpl = true → s.selectedLeaf = 0x80000006 →
    ∃ t, exec .cpuid s = .next t ∧ t.regs = ⟨0, 0, s.cfg.l2Info, 0⟩ ∧
      (l2Fields t.regs.ecx).lineSize.toNat = s.cfg.l2Info.toNat % 2 ^ 8 ∧
      (l2Fields t.regs.ecx).associativity.toNat = s.cfg.l2Info.toNat / 2 ^ 12 % 2 ^ 4 ∧
      l2SizeBytes t.regs.ecx = 1024 * (s.cfg.l2Info.toNat / 2 ^ 16)

/-- A selected leaf without content (R50; decision D25 of the spec, log entry 32) completes: the program
counter moves on and everything CPUID leaves alone is as before, the leaf-2 position among it and,
without the microcode facility, IA32_BIOS_SIGN_ID. The four registers are free values of which
nothing is said. -/
def Obligations.LeafWithoutContentCompletes : Prop :=
  ∀ s : State, s.cfg.cpuidImpl = true → 5 < s.selectedLeaf.toNat →
    (s.selectedLeaf.toNat < 0x80000000 ∨ 0x80000008 < s.selectedLeaf.toNat) →
    ∃ t, exec .cpuid s = .next t ∧ t.pc = s.pc + 2 ∧ Untouched s t ∧ t.l2pos = s.l2pos ∧
      (s.cfg.ucodeImpl = false → t.biosSignId = s.biosSignId)

/-! ## Runs, invariants and reset -/

/-- A step keeps the invariant of a good state, from every state that meets it: canonical memory, a
well-formed configuration, the leaf-2 position below the number of images. -/
def Obligations.StepKeepsTheInvariant : Prop :=
  ∀ s t : State, Inv s → step s = .next t → Inv t

/-- Reset gives a good state, and leaves one whatever well-formed processor it starts from. That the
reset state's processor and registers have the values they have is the model's choice (log entries 2
to 9). -/
def Obligations.ResetMeetsTheInvariant : Prop :=
  Inv State.reset ∧
  ∀ p : State, p.mem.wf = true → p.cfg.wf = true → Inv (State.resetFrom p)

/-- Reset clears BOOT_NT4, so that after it the effective maximum is MAX_BASIC (R119), whatever the
processor and whatever was there before. -/
def Obligations.ResetClearsBootNt4 : Prop :=
  ∀ p : State,
    (State.resetFrom p).bootNt4 = false ∧ (State.resetFrom p).effMaxBasic = p.cfg.maxBasic

/-- What reset leaves as it finds it: the identification data (10_state.md section 8, 70 section 1) and
the bits of IA32_MISC_ENABLE other than 22, whose value the spec leaves open (the model's choice, log
entry 6); the leaf-2 position is 0 where there is one image. -/
def Obligations.ResetKeepsIdentificationData : Prop :=
  ∀ p : State,
    (State.resetFrom p).cfg = p.cfg ∧
    (∀ k : Nat, k ≠ 22 → (State.resetFrom p).miscEnable.getLsbD k = p.miscEnable.getLsbD k) ∧
    (p.cfg.leaf2More = [] → (State.resetFrom p).l2pos = 0)

/-- Over any number of steps from any state: the program counter has moved by two for each; the
identification data and everything else CPUID leaves alone are as before (R3, R18), IA32_BIOS_SIGN_ID
among it without the microcode facility, and the leaf-2 position where there is one image, or where no
step of the run selected leaf 2 with more than one; and the signature register holds the update
signature if a step was taken on a processor with the facility. The runs are the model's: one agent,
and nothing that interrupts it (DESIGN CHOICE, log entry 21). -/
def Obligations.RunsKeepIdentificationAndAdvance : Prop :=
  ∀ (n : Nat) (s t : State), runSteps n s = .next t →
    t.pc = s.pc + BitVec.ofNat 32 (2 * n) ∧ Untouched s t ∧
    (s.cfg.ucodeImpl = false → t.biosSignId = s.biosSignId) ∧
    (s.cfg.leaf2More = [] → t.l2pos = s.l2pos) ∧
    ((∀ (k : Nat) (u : State), k < n → runSteps k s = .next u →
        ¬(u.selectedLeaf = 2 ∧ 1 < u.cfg.leaf2Count)) → t.l2pos = s.l2pos) ∧
    (0 < n → s.cfg.ucodeImpl = true → t.updateSignature = s.ucodeSig)

/-- Over any number of steps, the registers depend on nothing but what CPUID reads and the counter of the
free values: two states with the same program text, the same inputs and the same counter, and
anything at all in EBX, EDX, EFLAGS, the other bits of the model-specific registers, the signature
and the named registers, run alike and end with equal general registers. That Reserved registers are
equal where the counter is equal is the model's choice (DESIGN CHOICE, log entry 9); so is that the
leaf-2 position comes out equal where there are several images, and with it what leaf 2 returns (DESIGN
CHOICE, log entry 11); and so is that nothing interrupts a run (DESIGN CHOICE, log entry 21). -/
def Obligations.RunsRevealOnlyTheInputs : Prop :=
  ∀ (n : Nat) (s t s' : State), SameInputs s t → t.pc = s.pc → t.mem = s.mem →
    runSteps n s = .next s' →
      ∃ t', runSteps n t = .next t' ∧ SameInputs s' t' ∧ t'.pc = s'.pc ∧ t'.mem = s'.mem ∧
        (0 < n → t'.regs = s'.regs)

/-- On a processor that implements CPUID no run ends in an exception. R103 says so of the instruction
(60_exceptions.md section 1); that a run has no other source of exceptions, one agent that nothing
interrupts, is the model's choice (DESIGN CHOICE, log entry 21). -/
def Obligations.NoRunFaultsWhereImplemented : Prop :=
  ∀ (n : Nat) (s : State) (r : Fault), s.cfg.cpuidImpl = true → runSteps n s ≠ .fault r

/-! ## Registers and memory -/

/-- Each register holds what was last written to it and no other is touched (R7); a byte register is
the low byte of its register (R8). The named fields of the model-specific registers are their bits:
the update signature bits 63:32 of IA32_BIOS_SIGN_ID (R12), and PBE enable, BOOT_NT4 and L1 Data Cache
Context Mode bits 10, 22 and 24 of IA32_MISC_ENABLE (R13). -/
def Obligations.RegistersHoldWhatIsWritten : Prop :=
  (∀ (s : State) (r r' : Reg) (v : Word),
    (s.writeReg r v).readReg r' = if r' = r then v else s.readReg r') ∧
  (∀ (s : State) (r : ByteReg) (v : Word),
    ((s.writeReg r.whole v).readByteReg r).toNat = v.toNat % 256) ∧
  ∀ s : State,
    s.updateSignature.toNat = s.biosSignId.toNat / 2 ^ 32 ∧
    s.pbeEnable = decide (s.miscEnable.toNat / 2 ^ 10 % 2 = 1) ∧
    s.bootNt4 = decide (s.miscEnable.toNat / 2 ^ 22 % 2 = 1) ∧
    s.l1ContextMode = decide (s.miscEnable.toNat / 2 ^ 24 % 2 = 1)

/-- A 32-bit value stored is read back whole, lies least significant byte first, leaves every byte
outside its four alone, and keeps the canonical form (R25; little-endian order is decision D1 of the
spec, log entry 17). -/
def Obligations.StoredDwordIsLittleEndian : Prop :=
  ∀ (m m' : Memory) (a v : Word), m.writeDword a v = some m' →
    m'.readDword a = some v ∧
    (∀ k : Nat, k < 4 → (m'.readByte (a.toNat + k)).map BitVec.toNat =
      some (v.toNat / 256 ^ k % 256)) ∧
    (∀ x : Nat, x < a.toNat ∨ a.toNat + 4 ≤ x → m'.readByte x = m.readByte x) ∧
    (m.wf = true → m'.wf = true)

/-- Storing EBX, EDX and ECX of leaf 0 to ascending addresses lays the vendor string in reading order
(R25; little-endian memory is decision D1 of the spec, log entry 17). -/
def Obligations.StoredLeafZeroSpellsTheVendor : Prop :=
  ∀ (s t : State) (m1 m2 m3 : Memory) (a : Word),
    s.regs.eax = 0 → exec .cpuid s = .next t → a.toNat + 12 ≤ 2 ^ 32 →
    t.mem.writeDword a t.regs.ebx = some m1 → m1.writeDword (a + 4) t.regs.edx = some m2 →
    m2.writeDword (a + 8) t.regs.ecx = some m3 →
      m3.readBytes a 12 = some s.cfg.vendor.toList

/-! ## Software's procedures -/

/-- Detecting CPUID with the ID flag answers whether the processor implements it, and leaves the state
as it was (R94; that the flag cannot be changed without CPUID is decision D24 of the spec, log entry
24). -/
def Obligations.IdFlagDetectionIsRight : Prop :=
  ∀ s : State, detectCpuid s = (s.cfg.cpuidImpl, s)

/-- Reading the brand string by three executions of CPUID gives its 48 bytes in order, on every
processor whose extended maximum reaches 80000004H (R96). -/
def Obligations.BrandStringReadOut : Prop :=
  ∀ s : State, s.cfg.cpuidImpl = true → s.cfg.extImpl = true →
    0x80000004 ≤ s.cfg.maxExt.toNat → readBrandString s = some s.cfg.brandString.toList

/-- The brand-string support test (R95): it always answers; with extended leaves it answers whether
MAX_EXT reaches 80000004H; without them it answers no where the highest basic leaf is 1 and the
version's top bit is 0, or is 2 with one image whose EAX is valid. Where that leaf is 3 nothing is said
of the answer (N20). The branding method follows the answer, whichever it is, in the order of R100: the
brand string, else the brand index unless it is 0, else family, model and stepping. -/
def Obligations.BrandStringSupportTest : Prop :=
  ∀ s : State, s.cfg.cpuidImpl = true → s.cfg.wf = true →
    (s.cfg.extImpl = true →
      brandStringSupported s = some (decide (0x80000004 ≤ s.cfg.maxExt.toNat))) ∧
    (s.cfg.extImpl = false → s.effMaxBasic = 1 → s.cfg.version.toNat < 2 ^ 31 →
      brandStringSupported s = some false) ∧
    (s.cfg.extImpl = false → s.effMaxBasic = 2 → s.cfg.leaf2More = [] →
      descriptorsValid s.cfg.leaf2First.eax = true → brandStringSupported s = some false) ∧
    (∃ supported : Bool, brandStringSupported s = some supported ∧
      chooseBrandMethod s = some
        (if supported = true then .brandString
        else if s.cfg.brandIndex = 0 then .familyModelStepping
        else .brandIndex))

/-- A request that software has checked is answered with the leaf it asks for (R101, R121): a basic
request at most what leaf 0 reports selects itself, and so does an extended request on a processor
with extended leaves; a checked request for leaf 3 finds the serial number. -/
def Obligations.CheckedRequestIsAnswered : Prop :=
  ∀ (s : State) (input : Word), s.cfg.wf = true →
    (input.toNat < 0x80000000 ∨ s.cfg.extImpl = true) → requestChecked s input = true →
      s.selectLeaf input = input ∧ (input = 3 → s.cfg.psnImpl = true)

/-- Enumerating the caches (R73; D8, log entry 12): it depends on the configuration alone; it lists, in
order, the parameters of every index before the first one of type "no more caches" and stops there;
where no such index comes within the fuel it lists that many; and no index of that type lets the list
grow past it. -/
def Obligations.CacheEnumerationIsTheConfigurations : Prop :=
  (∀ (fuel : Nat) (index : Word) (s t : State), t.cfg = s.cfg → s.cfg.cpuidImpl = true →
    4 ≤ s.effMaxBasic.toNat → 4 ≤ t.effMaxBasic.toNat →
      enumerateCaches fuel index s = enumerateCaches fuel index t) ∧
  (∀ (fuel k : Nat) (index : Word) (s : State), s.cfg.cpuidImpl = true →
    4 ≤ s.effMaxBasic.toNat →
    (∀ j < k, cacheType (s.cfg.leaf4At (index + BitVec.ofNat 32 j)).eax ≠ .noMoreCaches) →
    (k < fuel ∧ cacheType (s.cfg.leaf4At (index + BitVec.ofNat 32 k)).eax = .noMoreCaches ∨
        k = fuel) →
      enumerateCaches fuel index s = (List.range k).map fun j =>
        cacheParameters (s.cfg.leaf4At (index + BitVec.ofNat 32 j))) ∧
  (∀ (fuel k : Nat) (index : Word) (s : State), s.cfg.cpuidImpl = true →
    4 ≤ s.effMaxBasic.toNat →
    cacheType (s.cfg.leaf4At (index + BitVec.ofNat 32 k)).eax = .noMoreCaches →
      (enumerateCaches fuel index s).length ≤ k)

/-! ## Reading the results -/

/-- The version word's fields (R60), from bit 0 up: stepping 4 bits, model 4, family 4, type 2,
reserved 2, extended model 4, extended family 8, reserved 4; together they are the word. The processor
type of bits 13:12 is, from 00B to 11B, original OEM, OverDrive, dual processor, Intel reserved (R61).
That the extended family has eight bits, and not the Operation section's four, is C1 and decision D19
of the spec (DEDUCED, log entry 28). -/
def Obligations.VersionFieldsAreTheWordsBits : Prop :=
  ∀ v : Word,
    (versionFields v).steppingId.toNat = v.toNat % 16 ∧
    (versionFields v).model.toNat = v.toNat / 2 ^ 4 % 16 ∧
    (versionFields v).familyId.toNat = v.toNat / 2 ^ 8 % 16 ∧
    (versionFields v).processorType.toNat = v.toNat / 2 ^ 12 % 4 ∧
    (versionFields v).extendedModel.toNat = v.toNat / 2 ^ 16 % 16 ∧
    (versionFields v).extendedFamily.toNat = v.toNat / 2 ^ 20 % 256 ∧
    (versionFields v).word = v ∧
    some (processorType v) =
      ([.originalOem, .overDrive, .dualProcessor, .intelReserved] :
        List ProcessorType)[v.toNat / 2 ^ 12 % 4]?

/-- Displayed model and family (R62): the extended field above the field, and the sum never carries.
The family uses the low four bits of the extended family (C14, log entry 28). -/
def Obligations.DisplayedModelAndFamilyDoNotCarry : Prop :=
  ∀ v : Word,
    (displayedModel v).toNat =
      16 * (versionFields v).extendedModel.toNat + (versionFields v).model.toNat ∧
    (displayedFamily v).toNat =
      16 * ((versionFields v).extendedFamily.toNat % 16) + (versionFields v).familyId.toNat

/-- Feature flags (R66, R67): which flag each of the 32 bits of the two words is, and which bits are
reserved; a flag is supported exactly where its bit is 1. -/
def Obligations.FeatureBitsAreThoseOfTheTables : Prop :=
  (List.range 32).map FeatureEcx.ofBit =
    [some .sse3, none, none, some .monitor, some .dsCpl, none, none, some .est, some .tm2, none,
      some .cnxtId] ++ List.replicate 21 none ∧
  (List.range 32).map FeatureEdx.ofBit =
    [some .fpu, some .vme, some .de, some .pse, some .tsc, some .msr, some .pae, some .mce,
      some .cx8, some .apic, none, some .sep, some .mtrr, some .pge, some .mca, some .cmov,
      some .pat, some .pse36, some .psn, some .clfsh, none, some .ds, some .acpi, some .mmx,
      some .fxsr, some .sse, some .sse2, some .ss, some .htt, some .tm, none, some .pbe] ∧
  (∀ (f : FeatureEcx) (n : Nat) (w : Word),
    FeatureEcx.ofBit n = some f → f.supported w = w.getLsbD n) ∧
  (∀ (f : FeatureEdx) (n : Nat) (w : Word),
    FeatureEdx.ofBit n = some f → f.supported w = w.getLsbD n)

/-- Decoding a leaf-2 image (R77, R78, R79, R82): the first component is AL; a descriptor other than
null is listed exactly as often as it stands in a byte of a register with bit 31 clear, AL's byte
excepted; a register with bit 31 set adds nothing, whatever its other bits; no null descriptor is
listed; a register's top byte gives none at or above 80H; there are at most 15. -/
def Obligations.LeafTwoDecodingSkipsReservedRegisters : Prop :=
  (∀ q : Quad, (decodeLeaf2 q).1 = q.eax.toNat % 2 ^ 8) ∧
  (∀ (q : Quad) (d : Byte), d ≠ 0 →
    (decodeLeaf2 q).2.count d =
      ([(q.eax, 1), (q.eax, 2), (q.eax, 3), (q.ebx, 0), (q.ebx, 1), (q.ebx, 2), (q.ebx, 3),
        (q.ecx, 0), (q.ecx, 1), (q.ecx, 2), (q.ecx, 3), (q.edx, 0), (q.edx, 1), (q.edx, 2),
        (q.edx, 3)] : List (Word × Nat)).countP
        fun p => p.1.getLsbD 31 == false && p.1.toNat / 256 ^ p.2 % 256 == d.toNat) ∧
  (∀ q : Quad, q.ebx.getLsbD 31 = true → decodeLeaf2 q = decodeLeaf2 { q with ebx := 0 }) ∧
  (∀ q : Quad, q.ecx.getLsbD 31 = true → decodeLeaf2 q = decodeLeaf2 { q with ecx := 0 }) ∧
  (∀ q : Quad, q.edx.getLsbD 31 = true → decodeLeaf2 q = decodeLeaf2 { q with edx := 0 }) ∧
  (∀ q : Quad, q.eax.getLsbD 31 = true →
    decodeLeaf2 q = decodeLeaf2 { q with eax := q.eax &&& 0xFF }) ∧
  (∀ (r : Word) (d : Byte), d ∈ registerDescriptors r [3] → d.toNat < 0x80) ∧
  (∀ q : Quad, (0 : Byte) ∉ (decodeLeaf2 q).2 ∧ (decodeLeaf2 q).2.length ≤ 15)

/-- The first Pentium 4's leaf 2 (R82, 95 S6): from reset, with 2 in EAX, CPUID returns 665B5001H, 0,
0, 007A7000H, which reads as one execution and descriptors 50H, 5BH, 66H, 70H, 7AH. That the
processor of reset is that one is the model's choice (log entry 2). -/
def Obligations.FirstPentium4LeafTwoExample : Prop :=
  ∃ t, exec .cpuid (State.reset.writeReg .eax 2) = .next t ∧
    t.regs = ⟨0x665B5001, 0, 0, 0x007A7000⟩ ∧
    decodeLeaf2 t.regs = (1, [0x50, 0x5B, 0x66, 0x70, 0x7A])

/-- Reading a leaf-4 image (41_basic_leaves.md section 4, R71 and R72 but for the size formula): the
cache type of EAX bits 4:0, the level of bits 7:5, self initializing and fully associative of bits 8
and 9, and each count the field plus one on unbounded numbers, so that none is ever 0. -/
def Obligations.CacheCountsAddOneWithoutWrap : Prop :=
  ∀ q : Quad,
    (cacheParameters q).type =
      (match q.eax.toNat % 2 ^ 5 with
        | 0 => .noMoreCaches
        | 1 => .data
        | 2 => .instruction
        | 3 => .unified
        | n => .reserved n) ∧
    (cacheParameters q).level = q.eax.toNat / 2 ^ 5 % 2 ^ 3 ∧
    (cacheParameters q).selfInitializing = decide (q.eax.toNat / 2 ^ 8 % 2 = 1) ∧
    (cacheParameters q).fullyAssociative = decide (q.eax.toNat / 2 ^ 9 % 2 = 1) ∧
    (cacheParameters q).cores = q.eax.toNat / 2 ^ 26 + 1 ∧
    (cacheParameters q).threadsSharing = q.eax.toNat / 2 ^ 14 % 2 ^ 12 + 1 ∧
    (cacheParameters q).lineSize = q.ebx.toNat % 2 ^ 12 + 1 ∧
    (cacheParameters q).partitions = q.ebx.toNat / 2 ^ 12 % 2 ^ 10 + 1 ∧
    (cacheParameters q).ways = q.ebx.toNat / 2 ^ 22 + 1 ∧
    (cacheParameters q).sets = q.ecx.toNat + 1

/-- The maximum frequency (44_branding_software.md section 2, R97; what a malformed number gives is the
model's choice, log entry 25): of the first Pentium 4's brand string 1500 x 10^6 hertz; of any text
whose last unit, the last "MHz", "GHz" or "THz" in it, is preceded by a blank and decimal digits, with
or without a point, the number those digits spell, the digits after the point counted, and the unit's
power of ten, whatever else follows that unit; of any text in which no unit stands an error; and a
frequency with no more digits after its point than the unit has zeros is that number times the power
of ten exactly. -/
def Obligations.MaximumFrequencyFromTheBrandString : Prop :=
  (maxFrequency Config.firstPentium4Brand.toList).map Frequency.hertz = some 1500000000 ∧
  (∀ (before whole fraction after : List Byte) (u : Byte) (e : Nat),
    (u, e) ∈ [((0x4D : Byte), 6), (0x47, 9), (0x54, 12)] →
    (∀ b ∈ whole ++ fraction, isDigit b = true) → 0 ∉ before → ¬UnitIn (brandText after) →
      (whole ≠ [] → maxFrequency (before ++ 0x20 :: (whole ++ [u, 0x48, 0x7A] ++ after)) =
        some ⟨whole.foldl (fun n b => 10 * n + (b.toNat - 48)) 0, 0, e⟩) ∧
      (whole ++ fraction ≠ [] →
        maxFrequency (before ++ 0x20 :: (whole ++ 0x2E :: (fraction ++ [u, 0x48, 0x7A] ++ after))) =
          some ⟨(whole ++ fraction).foldl (fun n b => 10 * n + (b.toNat - 48)) 0, fraction.length,
            e⟩)) ∧
  (∀ text : List Byte, ¬UnitIn (brandText text) → maxFrequency text = none) ∧
  ∀ f : Frequency, f.fractionDigits ≤ f.exponent →
    f.hertz * 10 ^ f.fractionDigits = f.digits * 10 ^ f.exponent

/-- The brand index table (R99), whole: the entries for a signature that no row singles out, the three
that depend on the signature, the indices without a row, and the reserved range. -/
def Obligations.BrandIndexTableEntries : Prop :=
  ∀ signature : Word,
    (signature ≠ 0x000006B1 → signature ≠ 0x00000F13 →
      (List.range 0x18).map (fun n => brandIndexInfo (BitVec.ofNat 8 n) signature) =
        [.notSupported, .brand "Intel(R) Celeron(R) processor",
          .brand "Intel(R) Pentium(R) III processor",
          .brand "Intel(R) Pentium(R) III Xeon(TM) processor",
          .brand "Intel(R) Pentium(R) III processor", .noRow,
          .brand "Mobile Intel(R) Pentium(R) III processor-M",
          .brand "Mobile Intel(R) Celeron(R) processor", .brand "Intel(R) Pentium(R) 4 processor",
          .brand "Intel(R) Pentium(R) 4 processor", .brand "Intel(R) Celeron(R) processor",
          .brand "Intel(R) Xeon(TM) processor", .brand "Intel(R) Xeon(TM) processor MP", .noRow,
          .brand "Mobile Intel(R) Pentium(R) 4 processor-M",
          .brand "Mobile Intel(R) Celeron(R) processor", .noRow,
          .brand "Mobile Genuine Intel(R) processor", .brand "Intel(R) Celeron(R) M processor",
          .brand "Mobile Intel(R) Celeron(R) processor", .brand "Intel(R) Celeron(R) processor",
          .brand "Mobile Genuine Intel(R) processor", .brand "Intel(R) Pentium(R) M processor",
          .brand "Mobile Intel(R) Celeron(R) processor"]) ∧
    (∀ index : Byte, index ≠ 0x03 →
      brandIndexInfo index 0x000006B1 = brandIndexInfo index 0x00000F00) ∧
    brandIndexInfo 0x03 0x000006B1 = .brand "Intel(R) Celeron(R) processor" ∧
    (∀ index : Byte, index ≠ 0x0B → index ≠ 0x0E →
      brandIndexInfo index 0x00000F13 = brandIndexInfo index 0x00000F00) ∧
    brandIndexInfo 0x0B 0x00000F13 = .brand "Intel(R) Xeon(TM) processor MP" ∧
    brandIndexInfo 0x0E 0x00000F13 = .brand "Intel(R) Xeon(TM) processor" ∧
    (∀ index : Byte, brandIndexInfo index signature = .reserved ↔ 0x18 ≤ index.toNat)

/-- The descriptor table (R79, R81): 51 rows with no descriptor twice; the rows at or above 80H are 82H
to 87H, B0H, B3H, F0H and F1H; a value has a meaning exactly when the table lists it; and the meaning
of every row, kind by kind: null and no further level, TLBs, first-level caches, second-level and
third-level caches, trace caches and prefetching. -/
def Obligations.DescriptorTableIsUnambiguous : Prop :=
  descriptorTable.length = 51 ∧ (descriptorTable.map Prod.fst).Nodup ∧
  (descriptorTable.map Prod.fst).filter (fun d => decide (0x80 ≤ d)) =
    [0x82, 0x83, 0x84, 0x85, 0x86, 0x87, 0xB0, 0xB3, 0xF0, 0xF1] ∧
  (∀ (d : Byte) (i : DescriptorInfo), descriptorInfo d = some i ↔ (d, i) ∈ descriptorTable) ∧
  ([0x00, 0x40] : List Byte).map descriptorInfo = [some .null, some .noFurtherLevel] ∧
  ([0x01, 0x02, 0x50, 0x51, 0x52, 0xB0] : List Byte).map descriptorInfo =
    [some (.tlb .instruction .kb4 (some 4) 32), some (.tlb .instruction .mb4 (some 4) 2),
      some (.tlb .instruction .kb4AndMb2OrMb4 none 64),
      some (.tlb .instruction .kb4AndMb2OrMb4 none 128),
      some (.tlb .instruction .kb4AndMb2OrMb4 none 256),
      some (.tlb .instruction .kb4 (some 4) 128)] ∧
  ([0x03, 0x04, 0x5B, 0x5C, 0x5D, 0xB3] : List Byte).map descriptorInfo =
    [some (.tlb .data .kb4 (some 4) 64), some (.tlb .data .mb4 (some 4) 8),
      some (.tlb .data .kb4AndMb4 none 64), some (.tlb .data .kb4AndMb4 none 128),
      some (.tlb .data .kb4AndMb4 none 256), some (.tlb .data .kb4 (some 4) 128)] ∧
  ([0x06, 0x08, 0x30] : List Byte).map descriptorInfo =
    [some (.level1 .instruction 8 4 32), some (.level1 .instruction 16 4 32),
      some (.level1 .instruction 32 8 64)] ∧
  ([0x0A, 0x0C, 0x2C, 0x60, 0x66, 0x67, 0x68] : List Byte).map descriptorInfo =
    [some (.level1 .data 8 2 32), some (.level1 .data 16 4 32), some (.level1 .data 32 8 64),
      some (.level1 .data 16 8 64), some (.level1 .data 8 4 64), some (.level1 .data 16 4 64),
      some (.level1 .data 32 4 64)] ∧
  ([0x22, 0x23, 0x25, 0x29] : List Byte).map descriptorInfo =
    [some (.outer 3 512 4 64 (some 2)), some (.outer 3 1024 8 64 (some 2)),
      some (.outer 3 2048 8 64 (some 2)), some (.outer 3 4096 8 64 (some 2))] ∧
  ([0x41, 0x42, 0x43, 0x44, 0x45, 0x82, 0x83, 0x84, 0x85] : List Byte).map descriptorInfo =
    [some (.outer 2 128 4 32 none), some (.outer 2 256 4 32 none), some (.outer 2 512 4 32 none),
      some (.outer 2 1024 4 32 none), some (.outer 2 2048 4 32 none),
      some (.outer 2 256 8 32 none), some (.outer 2 512 8 32 none),
      some (.outer 2 1024 8 32 none), some (.outer 2 2048 8 32 none)] ∧
  ([0x78, 0x7D, 0x7F, 0x86, 0x87] : List Byte).map descriptorInfo =
    [some (.outer 2 1024 4 64 none), some (.outer 2 2048 8 64 none),
      some (.outer 2 512 2 64 none), some (.outer 2 512 4 64 none),
      some (.outer 2 1024 8 64 none)] ∧
  ([0x79, 0x7A, 0x7B, 0x7C] : List Byte).map descriptorInfo =
    [some (.outer 2 128 8 64 (some 2)), some (.outer 2 256 8 64 (some 2)),
      some (.outer 2 512 8 64 (some 2)), some (.outer 2 1024 8 64 (some 2))] ∧
  ([0x70, 0x71, 0x72] : List Byte).map descriptorInfo =
    [some (.trace 12 8), some (.trace 16 8), some (.trace 32 8)] ∧
  ([0xF0, 0xF1] : List Byte).map descriptorInfo = [some (.prefetching 64), some (.prefetching 128)]

/-- What a processor of a documented row returns of the values R4 fixes, with BOOT_NT4 clear: leaf 0
the row's maximum and "GenuineIntel"; leaf 1 a logical processor count of two on the Hyper-Threading
row, and the PSN flag on the Pentium III row alone; leaf 80000000H the row's extended maximum
(00_scope.md sections 1 and 3). -/
def Obligations.DocumentedRowsIdentifyThemselves : Prop :=
  ∀ (s : State) (r : ProcessorRow),
    s.cfg.ofRow r = true → s.cfg.cpuidImpl = true → s.bootNt4 = false →
    (∃ t, exec .cpuid (s.writeReg .eax 0) = .next t ∧ r.maxBasic = some t.regs.eax ∧
      t.regs.ebx = 0x756E6547 ∧ t.regs.edx = 0x49656E69 ∧ t.regs.ecx = 0x6C65746E) ∧
    (∃ t, exec .cpuid (s.writeReg .eax 1) = .next t ∧
      (r = .pentium4HyperThreading → (leaf1Ebx t.regs.ebx).logicalCount = 2) ∧
      (s.cfg.wf = true → FeatureEdx.psn.supported t.regs.edx = true → r = .pentiumIII)) ∧
    (∀ e : Word, r.maxExt = some e →
      ∃ t, exec .cpuid (s.writeReg .eax 0x80000000) = .next t ∧ t.regs.eax = e)

/-- What software reads out with one execution of CPUID: from leaf 0, EBX, EDX and ECX in that order,
the twelve characters of the vendor string (41_basic_leaves.md section 1); and from leaf 1 the brand
index and the processor signature, by which it finds the entry of the brand index table
(44_branding_software.md section 3). -/
def Obligations.VendorAndBrandIndexReadOut : Prop :=
  ∀ s : State, s.cfg.cpuidImpl = true →
    readVendorString s = some s.cfg.vendor.toList ∧
    (s.cfg.wf = true →
      readBrandIndex s = some (brandIndexInfo s.cfg.brandIndex s.cfg.version))
end

