-- ==== Sys2Proof/Laws/Bits.lean ====
section
/-! SUPPORT. Bytes of words, packed strings and single bits: one law per operation. -/

namespace Sys2Proof

/-- Two words joined, as a number. -/
theorem toNat_append {n m : Nat} (a : BitVec n) (b : BitVec m) :
    (a ++ b).toNat = a.toNat * 2 ^ m + b.toNat := by
  rw [BitVec.toNat_append, ← Nat.shiftLeft_add_eq_or_of_lt b.isLt, Nat.shiftLeft_eq]

/-- A byte joined below a word. -/
theorem toNat_append8 {n : Nat} (a : BitVec n) (b : Byte) :
    (a ++ b).toNat = a.toNat * 256 + b.toNat :=
  toNat_append a b

/-- The number of four bytes, the least significant first (R25). -/
theorem toNat_dwordOfBytes (b0 b1 b2 b3 : Byte) :
    (dwordOfBytes b0 b1 b2 b3).toNat =
      b0.toNat + 256 * b1.toNat + 65536 * b2.toNat + 16777216 * b3.toNat := by
  have h : (dwordOfBytes b0 b1 b2 b3).toNat =
      ((b3.toNat * 256 + b2.toNat) * 256 + b1.toNat) * 256 + b0.toNat := by
    unfold dwordOfBytes
    rw [← toNat_append8, ← toNat_append8, ← toNat_append8]
  omega

/-- Byte k as a number. -/
theorem toNat_byteOf (w : Word) (k : Nat) : (byteOf w k).toNat = w.toNat / 256 ^ k % 256 := by
  unfold byteOf
  rw [BitVec.extractLsb'_toNat, Nat.shiftRight_eq_div_pow, show (256:Nat) = 2^8 by norm_num, ← pow_mul]

/-- Four bytes joined and split again. -/
theorem dwordBytes_dwordOfBytes (b0 b1 b2 b3 : Byte) :
    dwordBytes (dwordOfBytes b0 b1 b2 b3) = [b0, b1, b2, b3] := by
  have h0 := b0.isLt
  have h1 := b1.isLt
  have h2 := b2.isLt
  have h3 := b3.isLt
  have hb : ∀ k (b : Byte), (dwordOfBytes b0 b1 b2 b3).toNat / 256 ^ k % 256 = b.toNat →
      byteOf (dwordOfBytes b0 b1 b2 b3) k = b := by
    intro k b h
    exact BitVec.eq_of_toNat_eq ((toNat_byteOf _ k).trans h)
  unfold dwordBytes
  rw [hb 0 b0, hb 1 b1, hb 2 b2, hb 3 b3] <;> rw [toNat_dwordOfBytes] <;> norm_num <;> omega

/-- A word split into its bytes and joined again. -/
theorem dwordOfBytes_byteOf (w : Word) :
    dwordOfBytes (byteOf w 0) (byteOf w 1) (byteOf w 2) (byteOf w 3) = w := by
  apply BitVec.eq_of_toNat_eq
  rw [toNat_dwordOfBytes, toNat_byteOf, toNat_byteOf, toNat_byteOf, toNat_byteOf]
  have := w.isLt
  norm_num
  omega

/-- Packing four characters (R5) is joining them least significant first. -/
theorem pack4_eq {n : Nat} (s : Vector Byte n) (k : Nat) (h : k + 3 < n) :
    pack4 s k h = dwordOfBytes s[k] s[k + 1] s[k + 2] s[k + 3] := rfl

/-- The bytes of a packed register are the four characters (R5, R25). -/
theorem dwordBytes_pack4 {n : Nat} (s : Vector Byte n) (k : Nat) (h : k + 3 < n) :
    dwordBytes (pack4 s k h) = [s[k], s[k + 1], s[k + 2], s[k + 3]] :=
  dwordBytes_dwordOfBytes _ _ _ _

/-- The bytes of a packed register, as a piece of the string. -/
theorem dwordBytes_pack4_take {n : Nat} (s : Vector Byte n) (k : Nat) (h : k + 3 < n) :
    dwordBytes (pack4 s k h) = (s.toList.drop k).take 4 := by
  rw [dwordBytes_pack4]
  apply List.ext_getElem
  · simp; omega
  · intro i h1 h2
    simp at h1
    rw [List.getElem_take, List.getElem_drop]
    match i, h1 with
    | 0, _ => simp
    | 1, _ => simp
    | 2, _ => simp
    | 3, _ => simp

/-- Setting one bit sets that bit and no other. -/
theorem getLsbD_withBit {n : Nat} (w : BitVec n) (k : Nat) (b : Bool) {j : Nat} (h : j < n) :
    (withBit w k b).getLsbD j = if j = k then b else w.getLsbD j := by
  unfold withBit
  by_cases hjk : j = k
  · subst hjk
    cases b
    · rw [if_neg (by decide), if_pos rfl, BitVec.getLsbD_and, BitVec.getLsbD_not, BitVec.getLsbD_twoPow]
      simp [h]
    · rw [if_pos rfl, if_pos rfl, BitVec.getLsbD_or, BitVec.getLsbD_twoPow]
      simp [h]
  · cases b
    · rw [if_neg (by decide), if_neg hjk, BitVec.getLsbD_and, BitVec.getLsbD_not, BitVec.getLsbD_twoPow]
      simp [h, Ne.symm hjk]
    · rw [if_pos rfl, if_neg hjk, BitVec.getLsbD_or, BitVec.getLsbD_twoPow]
      simp [Ne.symm hjk]

end Sys2Proof
end

