-- ==== Sys2Proof/Laws/Branding.lean ====
section
/-! SUPPORT. What the frequency procedure of R97 finds: the last unit, and the decimal number before
it. -/

namespace Sys2Proof.Machine
open Sys2Proof.Safety

/-- A text with no NUL in its beginning begins with it (R87). -/
theorem brandText_append {a b : List Byte} (h : 0 ∉ a) : brandText (a ++ b) = a ++ brandText b := by
  have hp : ∀ x ∈ a, (x != 0) = true := fun x hx => bne_iff_ne.mpr fun e => h (e ▸ hx)
  unfold brandText
  rw [List.takeWhile_append_of_pos hp]

/-- The first letters of the units. -/
theorem unitExponent_some_mem {m : Byte} {e : Nat} (h : unitExponent m = some e) :
    m ∈ [(0x4D : Byte), 0x47, 0x54] := by
  unfold unitExponent at h
  split at h
  · simp [*]
  · split at h
    · simp [*]
    · split at h
      · simp [*]
      · cases h

/-- Where a unit stands, read backwards, the scan ends. -/
theorem scanUnit_unit {m : Byte} {e : Nat} (h : unitExponent m = some e) (before : List Byte) :
    scanUnit (0x7A :: 0x48 :: m :: before) = some (e, before) := by
  simp [scanUnit, h]

/-- Where none stands, the scan goes on. -/
theorem scanUnit_skip {b : Byte} {rest : List Byte}
    (h : ∀ m before, b :: rest = 0x7A :: 0x48 :: m :: before → unitExponent m = none) :
    scanUnit (b :: rest) = scanUnit rest := by
  rw [scanUnit.eq_def]
  dsimp only
  split
  · split
    · rename_i h' m before hb _ _ e hh he
      rw [h m before (by simp_all)] at he
      cases he
    · rfl
  · rfl

/-- A unit in the beginning of a text stands in the text. -/
theorem unitIn_append {text : List Byte} (h : UnitIn text) (more : List Byte) :
    UnitIn (text ++ more) := by
  obtain ⟨u, hu, h⟩ := h
  exact ⟨u, hu, h.trans (List.infix_append' [] text more)⟩

/-- The scan passes over a text in which no unit stands. What it meets after it may begin with a unit's
last letter, or be nothing: then no unit lies across the border. -/
theorem scanUnit_append {r tail : List Byte} (hr : ¬UnitIn r.reverse)
    (ht : ∀ b ∈ tail.head?, b = 0x7A) : scanUnit (r ++ tail) = scanUnit tail := by
  induction r with
  | nil => rfl
  | cons b r ih =>
    rw [List.reverse_cons] at hr
    rw [← ih fun h => hr (unitIn_append h [b]), List.cons_append]
    refine scanUnit_skip fun m before h => ?_
    match r, h with
    | [], h => simp_all
    | [c], h =>
      obtain rfl : m = 0x7A := by simp_all
      rfl
    | c :: d :: r, h =>
      cases he : unitExponent m with
      | none => rfl
      | some e =>
        refine absurd ⟨m, unitExponent_some_mem he, r.reverse, [], ?_⟩ hr
        simp_all

/-- A text without a unit: the scan finds none. -/
theorem scanUnit_none {text : List Byte} (h : ¬UnitIn text) : scanUnit text.reverse = none := by
  have := scanUnit_append (r := text.reverse) (tail := []) (by simpa using h) (by simp)
  simpa [scanUnit] using this

/-- The scan finds the last unit of a text, and what stands before it. -/
theorem scanUnit_last {u : Byte} {e : Nat} {before after : List Byte}
    (hu : unitExponent u = some e) (h : ¬UnitIn after) :
    scanUnit (before ++ [u, 0x48, 0x7A] ++ after).reverse = some (e, before.reverse) := by
  rw [List.reverse_append, scanUnit_append (by simpa using h) (by simp), List.reverse_append]
  exact scanUnit_unit hu _

/-- Decimal digits are read from the left, and counted where they stand after the point. -/
theorem parseDecimal_digits {ds : List Byte} (h : ∀ b ∈ ds, isDigit b = true) (n f : Nat)
    (point : Bool) (rest : List Byte) :
    parseDecimal n f point (ds ++ rest) =
      parseDecimal (ds.foldl (fun n b => 10 * n + (b.toNat - 48)) n)
        (if point then f + ds.length else f) point rest := by
  induction ds generalizing n f with
  | nil => simp
  | cons b ds ih =>
    rw [List.cons_append, parseDecimal, if_pos (h b (by simp)), ih fun c hc => h c (by simp [hc])]
    cases point <;> simp [Nat.add_assoc, Nat.add_comm 1]

/-- The first point of a number. -/
theorem parseDecimal_point (n f : Nat) (rest : List Byte) :
    parseDecimal n f false (0x2E :: rest) = parseDecimal n f true rest := by
  rw [parseDecimal, if_neg (by decide), if_pos (by decide)]

end Sys2Proof.Machine
end

