-- ==== Sys2Proof/Laws/State.lean ====
section
/-! SUPPORT. One lemma per field of State per update, so that no proof unfolds a record update. -/

namespace Sys2Proof.Machine

@[simp] theorem State.setRegs_cfg (s : State) (q : Quad) :
    (s.setRegs q).cfg = s.cfg := rfl

@[simp] theorem State.setRegs_regs (s : State) (q : Quad) :
    (s.setRegs q).regs = q := rfl

@[simp] theorem State.setRegs_pc (s : State) (q : Quad) :
    (s.setRegs q).pc = s.pc := rfl

@[simp] theorem State.setRegs_eflags (s : State) (q : Quad) :
    (s.setRegs q).eflags = s.eflags := rfl

@[simp] theorem State.setRegs_biosSignId (s : State) (q : Quad) :
    (s.setRegs q).biosSignId = s.biosSignId := rfl

@[simp] theorem State.setRegs_miscEnable (s : State) (q : Quad) :
    (s.setRegs q).miscEnable = s.miscEnable := rfl

@[simp] theorem State.setRegs_ucodeSig (s : State) (q : Quad) :
    (s.setRegs q).ucodeSig = s.ucodeSig := rfl

@[simp] theorem State.setRegs_l2pos (s : State) (q : Quad) :
    (s.setRegs q).l2pos = s.l2pos := rfl

@[simp] theorem State.setRegs_mem (s : State) (q : Quad) :
    (s.setRegs q).mem = s.mem := rfl

@[simp] theorem State.setRegs_named (s : State) (q : Quad) :
    (s.setRegs q).named = s.named := rfl

@[simp] theorem State.setRegs_draws (s : State) (q : Quad) :
    (s.setRegs q).draws = s.draws := rfl

@[simp] theorem State.advancePc_cfg (s : State) (n : Nat) :
    (s.advancePc n).cfg = s.cfg := rfl

@[simp] theorem State.advancePc_regs (s : State) (n : Nat) :
    (s.advancePc n).regs = s.regs := rfl

@[simp] theorem State.advancePc_pc (s : State) (n : Nat) :
    (s.advancePc n).pc = s.pc + BitVec.ofNat 32 n := rfl

@[simp] theorem State.advancePc_eflags (s : State) (n : Nat) :
    (s.advancePc n).eflags = s.eflags := rfl

@[simp] theorem State.advancePc_biosSignId (s : State) (n : Nat) :
    (s.advancePc n).biosSignId = s.biosSignId := rfl

@[simp] theorem State.advancePc_miscEnable (s : State) (n : Nat) :
    (s.advancePc n).miscEnable = s.miscEnable := rfl

@[simp] theorem State.advancePc_ucodeSig (s : State) (n : Nat) :
    (s.advancePc n).ucodeSig = s.ucodeSig := rfl

@[simp] theorem State.advancePc_l2pos (s : State) (n : Nat) :
    (s.advancePc n).l2pos = s.l2pos := rfl

@[simp] theorem State.advancePc_mem (s : State) (n : Nat) :
    (s.advancePc n).mem = s.mem := rfl

@[simp] theorem State.advancePc_named (s : State) (n : Nat) :
    (s.advancePc n).named = s.named := rfl

@[simp] theorem State.advancePc_draws (s : State) (n : Nat) :
    (s.advancePc n).draws = s.draws := rfl

@[simp] theorem State.setLeaf2Position_cfg (s : State) (p : Nat) :
    (s.setLeaf2Position p).cfg = s.cfg := rfl

@[simp] theorem State.setLeaf2Position_regs (s : State) (p : Nat) :
    (s.setLeaf2Position p).regs = s.regs := rfl

@[simp] theorem State.setLeaf2Position_pc (s : State) (p : Nat) :
    (s.setLeaf2Position p).pc = s.pc := rfl

@[simp] theorem State.setLeaf2Position_eflags (s : State) (p : Nat) :
    (s.setLeaf2Position p).eflags = s.eflags := rfl

@[simp] theorem State.setLeaf2Position_biosSignId (s : State) (p : Nat) :
    (s.setLeaf2Position p).biosSignId = s.biosSignId := rfl

@[simp] theorem State.setLeaf2Position_miscEnable (s : State) (p : Nat) :
    (s.setLeaf2Position p).miscEnable = s.miscEnable := rfl

@[simp] theorem State.setLeaf2Position_ucodeSig (s : State) (p : Nat) :
    (s.setLeaf2Position p).ucodeSig = s.ucodeSig := rfl

@[simp] theorem State.setLeaf2Position_l2pos (s : State) (p : Nat) :
    (s.setLeaf2Position p).l2pos = p := rfl

@[simp] theorem State.setLeaf2Position_mem (s : State) (p : Nat) :
    (s.setLeaf2Position p).mem = s.mem := rfl

@[simp] theorem State.setLeaf2Position_named (s : State) (p : Nat) :
    (s.setLeaf2Position p).named = s.named := rfl

@[simp] theorem State.setLeaf2Position_draws (s : State) (p : Nat) :
    (s.setLeaf2Position p).draws = s.draws := rfl

@[simp] theorem State.setBiosSignId_cfg (s : State) (v : MsrWord) :
    (s.setBiosSignId v).cfg = s.cfg := rfl

@[simp] theorem State.setBiosSignId_regs (s : State) (v : MsrWord) :
    (s.setBiosSignId v).regs = s.regs := rfl

@[simp] theorem State.setBiosSignId_pc (s : State) (v : MsrWord) :
    (s.setBiosSignId v).pc = s.pc := rfl

@[simp] theorem State.setBiosSignId_eflags (s : State) (v : MsrWord) :
    (s.setBiosSignId v).eflags = s.eflags := rfl

@[simp] theorem State.setBiosSignId_biosSignId (s : State) (v : MsrWord) :
    (s.setBiosSignId v).biosSignId = v := rfl

@[simp] theorem State.setBiosSignId_miscEnable (s : State) (v : MsrWord) :
    (s.setBiosSignId v).miscEnable = s.miscEnable := rfl

@[simp] theorem State.setBiosSignId_ucodeSig (s : State) (v : MsrWord) :
    (s.setBiosSignId v).ucodeSig = s.ucodeSig := rfl

@[simp] theorem State.setBiosSignId_l2pos (s : State) (v : MsrWord) :
    (s.setBiosSignId v).l2pos = s.l2pos := rfl

@[simp] theorem State.setBiosSignId_mem (s : State) (v : MsrWord) :
    (s.setBiosSignId v).mem = s.mem := rfl

@[simp] theorem State.setBiosSignId_named (s : State) (v : MsrWord) :
    (s.setBiosSignId v).named = s.named := rfl

@[simp] theorem State.setBiosSignId_draws (s : State) (v : MsrWord) :
    (s.setBiosSignId v).draws = s.draws := rfl

@[simp] theorem State.nextDraw_cfg (s : State) :
    s.nextDraw.cfg = s.cfg := rfl

@[simp] theorem State.nextDraw_regs (s : State) :
    s.nextDraw.regs = s.regs := rfl

@[simp] theorem State.nextDraw_pc (s : State) :
    s.nextDraw.pc = s.pc := rfl

@[simp] theorem State.nextDraw_eflags (s : State) :
    s.nextDraw.eflags = s.eflags := rfl

@[simp] theorem State.nextDraw_biosSignId (s : State) :
    s.nextDraw.biosSignId = s.biosSignId := rfl

@[simp] theorem State.nextDraw_miscEnable (s : State) :
    s.nextDraw.miscEnable = s.miscEnable := rfl

@[simp] theorem State.nextDraw_ucodeSig (s : State) :
    s.nextDraw.ucodeSig = s.ucodeSig := rfl

@[simp] theorem State.nextDraw_l2pos (s : State) :
    s.nextDraw.l2pos = s.l2pos := rfl

@[simp] theorem State.nextDraw_mem (s : State) :
    s.nextDraw.mem = s.mem := rfl

@[simp] theorem State.nextDraw_named (s : State) :
    s.nextDraw.named = s.named := rfl

@[simp] theorem State.nextDraw_draws (s : State) :
    s.nextDraw.draws = s.draws + 1 := rfl

@[simp] theorem State.serialize_cfg (s : State) :
    s.serialize.cfg = s.cfg := rfl

@[simp] theorem State.serialize_regs (s : State) :
    s.serialize.regs = s.regs := rfl

@[simp] theorem State.serialize_pc (s : State) :
    s.serialize.pc = s.pc := rfl

@[simp] theorem State.serialize_eflags (s : State) :
    s.serialize.eflags = s.eflags := rfl

@[simp] theorem State.serialize_biosSignId (s : State) :
    s.serialize.biosSignId = s.biosSignId := rfl

@[simp] theorem State.serialize_miscEnable (s : State) :
    s.serialize.miscEnable = s.miscEnable := rfl

@[simp] theorem State.serialize_ucodeSig (s : State) :
    s.serialize.ucodeSig = s.ucodeSig := rfl

@[simp] theorem State.serialize_l2pos (s : State) :
    s.serialize.l2pos = s.l2pos := rfl

@[simp] theorem State.serialize_mem (s : State) :
    s.serialize.mem = s.mem := rfl

@[simp] theorem State.serialize_named (s : State) :
    s.serialize.named = s.named := rfl

@[simp] theorem State.serialize_draws (s : State) :
    s.serialize.draws = s.draws := rfl

@[simp] theorem State.placeAtPc_cfg (s : State) (bs : List Byte) :
    (s.placeAtPc bs).cfg = s.cfg := rfl

@[simp] theorem State.placeAtPc_regs (s : State) (bs : List Byte) :
    (s.placeAtPc bs).regs = s.regs := rfl

@[simp] theorem State.placeAtPc_pc (s : State) (bs : List Byte) :
    (s.placeAtPc bs).pc = s.pc := rfl

@[simp] theorem State.placeAtPc_eflags (s : State) (bs : List Byte) :
    (s.placeAtPc bs).eflags = s.eflags := rfl

@[simp] theorem State.placeAtPc_biosSignId (s : State) (bs : List Byte) :
    (s.placeAtPc bs).biosSignId = s.biosSignId := rfl

@[simp] theorem State.placeAtPc_miscEnable (s : State) (bs : List Byte) :
    (s.placeAtPc bs).miscEnable = s.miscEnable := rfl

@[simp] theorem State.placeAtPc_ucodeSig (s : State) (bs : List Byte) :
    (s.placeAtPc bs).ucodeSig = s.ucodeSig := rfl

@[simp] theorem State.placeAtPc_l2pos (s : State) (bs : List Byte) :
    (s.placeAtPc bs).l2pos = s.l2pos := rfl

@[simp] theorem State.placeAtPc_mem (s : State) (bs : List Byte) :
    (s.placeAtPc bs).mem = (s.mem.writeBytes s.pc bs).getD s.mem := rfl

@[simp] theorem State.placeAtPc_named (s : State) (bs : List Byte) :
    (s.placeAtPc bs).named = s.named := rfl

@[simp] theorem State.placeAtPc_draws (s : State) (bs : List Byte) :
    (s.placeAtPc bs).draws = s.draws := rfl

@[simp] theorem State.writeIdFlag_cfg (s : State) (b : Bool) :
    (s.writeIdFlag b).cfg = s.cfg := rfl

@[simp] theorem State.writeIdFlag_regs (s : State) (b : Bool) :
    (s.writeIdFlag b).regs = s.regs := rfl

@[simp] theorem State.writeIdFlag_pc (s : State) (b : Bool) :
    (s.writeIdFlag b).pc = s.pc := rfl

@[simp] theorem State.writeIdFlag_eflags (s : State) (b : Bool) :
    (s.writeIdFlag b).eflags = if s.cfg.cpuidImpl then withBit s.eflags idBit b else s.eflags := rfl

@[simp] theorem State.writeIdFlag_biosSignId (s : State) (b : Bool) :
    (s.writeIdFlag b).biosSignId = s.biosSignId := rfl

@[simp] theorem State.writeIdFlag_miscEnable (s : State) (b : Bool) :
    (s.writeIdFlag b).miscEnable = s.miscEnable := rfl

@[simp] theorem State.writeIdFlag_ucodeSig (s : State) (b : Bool) :
    (s.writeIdFlag b).ucodeSig = s.ucodeSig := rfl

@[simp] theorem State.writeIdFlag_l2pos (s : State) (b : Bool) :
    (s.writeIdFlag b).l2pos = s.l2pos := rfl

@[simp] theorem State.writeIdFlag_mem (s : State) (b : Bool) :
    (s.writeIdFlag b).mem = s.mem := rfl

@[simp] theorem State.writeIdFlag_named (s : State) (b : Bool) :
    (s.writeIdFlag b).named = s.named := rfl

@[simp] theorem State.writeIdFlag_draws (s : State) (b : Bool) :
    (s.writeIdFlag b).draws = s.draws := rfl

/-! Writing one register changes `regs` alone, and there that register alone. -/

@[simp] theorem State.writeReg_cfg (s : State) (r : Reg) (v : Word) :
    (s.writeReg r v).cfg = s.cfg := by cases r <;> rfl

@[simp] theorem State.writeReg_pc (s : State) (r : Reg) (v : Word) :
    (s.writeReg r v).pc = s.pc := by cases r <;> rfl

@[simp] theorem State.writeReg_eflags (s : State) (r : Reg) (v : Word) :
    (s.writeReg r v).eflags = s.eflags := by cases r <;> rfl

@[simp] theorem State.writeReg_biosSignId (s : State) (r : Reg) (v : Word) :
    (s.writeReg r v).biosSignId = s.biosSignId := by cases r <;> rfl

@[simp] theorem State.writeReg_miscEnable (s : State) (r : Reg) (v : Word) :
    (s.writeReg r v).miscEnable = s.miscEnable := by cases r <;> rfl

@[simp] theorem State.writeReg_ucodeSig (s : State) (r : Reg) (v : Word) :
    (s.writeReg r v).ucodeSig = s.ucodeSig := by cases r <;> rfl

@[simp] theorem State.writeReg_l2pos (s : State) (r : Reg) (v : Word) :
    (s.writeReg r v).l2pos = s.l2pos := by cases r <;> rfl

@[simp] theorem State.writeReg_mem (s : State) (r : Reg) (v : Word) :
    (s.writeReg r v).mem = s.mem := by cases r <;> rfl

@[simp] theorem State.writeReg_named (s : State) (r : Reg) (v : Word) :
    (s.writeReg r v).named = s.named := by cases r <;> rfl

@[simp] theorem State.writeReg_draws (s : State) (r : Reg) (v : Word) :
    (s.writeReg r v).draws = s.draws := by cases r <;> rfl

@[simp] theorem State.writeReg_eax_eax (s : State) (v : Word) :
    (s.writeReg .eax v).regs.eax = v := rfl

@[simp] theorem State.writeReg_eax_ebx (s : State) (v : Word) :
    (s.writeReg .eax v).regs.ebx = s.regs.ebx := rfl

@[simp] theorem State.writeReg_eax_ecx (s : State) (v : Word) :
    (s.writeReg .eax v).regs.ecx = s.regs.ecx := rfl

@[simp] theorem State.writeReg_eax_edx (s : State) (v : Word) :
    (s.writeReg .eax v).regs.edx = s.regs.edx := rfl

@[simp] theorem State.writeReg_ebx_eax (s : State) (v : Word) :
    (s.writeReg .ebx v).regs.eax = s.regs.eax := rfl

@[simp] theorem State.writeReg_ebx_ebx (s : State) (v : Word) :
    (s.writeReg .ebx v).regs.ebx = v := rfl

@[simp] theorem State.writeReg_ebx_ecx (s : State) (v : Word) :
    (s.writeReg .ebx v).regs.ecx = s.regs.ecx := rfl

@[simp] theorem State.writeReg_ebx_edx (s : State) (v : Word) :
    (s.writeReg .ebx v).regs.edx = s.regs.edx := rfl

@[simp] theorem State.writeReg_ecx_eax (s : State) (v : Word) :
    (s.writeReg .ecx v).regs.eax = s.regs.eax := rfl

@[simp] theorem State.writeReg_ecx_ebx (s : State) (v : Word) :
    (s.writeReg .ecx v).regs.ebx = s.regs.ebx := rfl

@[simp] theorem State.writeReg_ecx_ecx (s : State) (v : Word) :
    (s.writeReg .ecx v).regs.ecx = v := rfl

@[simp] theorem State.writeReg_ecx_edx (s : State) (v : Word) :
    (s.writeReg .ecx v).regs.edx = s.regs.edx := rfl

@[simp] theorem State.writeReg_edx_eax (s : State) (v : Word) :
    (s.writeReg .edx v).regs.eax = s.regs.eax := rfl

@[simp] theorem State.writeReg_edx_ebx (s : State) (v : Word) :
    (s.writeReg .edx v).regs.ebx = s.regs.ebx := rfl

@[simp] theorem State.writeReg_edx_ecx (s : State) (v : Word) :
    (s.writeReg .edx v).regs.ecx = s.regs.ecx := rfl

@[simp] theorem State.writeReg_edx_edx (s : State) (v : Word) :
    (s.writeReg .edx v).regs.edx = v := rfl

/-! CPUID: every field of the next state. -/

@[simp] theorem State.afterCpuid_cfg (s : State) :
    s.afterCpuid.cfg = s.cfg := rfl

@[simp] theorem State.afterCpuid_regs (s : State) :
    s.afterCpuid.regs = s.cpuidResult := rfl

@[simp] theorem State.afterCpuid_pc (s : State) :
    s.afterCpuid.pc = s.pc + 2 := rfl

@[simp] theorem State.afterCpuid_eflags (s : State) :
    s.afterCpuid.eflags = s.eflags := rfl

@[simp] theorem State.afterCpuid_biosSignId (s : State) :
    s.afterCpuid.biosSignId = s.loadedSignature := rfl

@[simp] theorem State.afterCpuid_miscEnable (s : State) :
    s.afterCpuid.miscEnable = s.miscEnable := rfl

@[simp] theorem State.afterCpuid_ucodeSig (s : State) :
    s.afterCpuid.ucodeSig = s.ucodeSig := rfl

@[simp] theorem State.afterCpuid_l2pos (s : State) :
    s.afterCpuid.l2pos = s.nextLeaf2Position := rfl

@[simp] theorem State.afterCpuid_mem (s : State) :
    s.afterCpuid.mem = s.mem := rfl

@[simp] theorem State.afterCpuid_named (s : State) :
    s.afterCpuid.named = s.named := rfl

@[simp] theorem State.afterCpuid_draws (s : State) :
    s.afterCpuid.draws = s.draws + 1 := rfl

/-! Reset: what it clears, and what it leaves as it was. -/

@[simp] theorem State.resetFrom_cfg (p : State) :
    (State.resetFrom p).cfg = p.cfg := rfl

@[simp] theorem State.resetFrom_regs (p : State) :
    (State.resetFrom p).regs = p.regs := rfl

@[simp] theorem State.resetFrom_pc (p : State) :
    (State.resetFrom p).pc = p.pc := rfl

@[simp] theorem State.resetFrom_eflags (p : State) :
    (State.resetFrom p).eflags = p.eflags := rfl

@[simp] theorem State.resetFrom_biosSignId (p : State) :
    (State.resetFrom p).biosSignId = p.biosSignId := rfl

@[simp] theorem State.resetFrom_ucodeSig (p : State) :
    (State.resetFrom p).ucodeSig = p.ucodeSig := rfl

@[simp] theorem State.resetFrom_mem (p : State) :
    (State.resetFrom p).mem = p.mem := rfl

@[simp] theorem State.resetFrom_named (p : State) :
    (State.resetFrom p).named = p.named := rfl

@[simp] theorem State.resetFrom_draws (p : State) :
    (State.resetFrom p).draws = p.draws := rfl

@[simp] theorem State.resetFrom_miscEnable (p : State) :
    (State.resetFrom p).miscEnable = withBit p.miscEnable 22 false := rfl

@[simp] theorem State.resetFrom_l2pos (p : State) :
    (State.resetFrom p).l2pos = p.l2pos % p.cfg.leaf2Count := rfl

end Sys2Proof.Machine
end

