-- ==== Sys2Proof/Laws/Cpuid.lean ====
section
/-! SUPPORT. Everything the shared operations of CPUID, the fetch and a step can do, once each. -/

namespace Sys2Proof.Machine

/-! ## Which leaf, and what it holds -/

theorem State.effMaxBasic_of_clear {s : State} (h : s.bootNt4 = false) :
    s.effMaxBasic = s.cfg.maxBasic := by
  simp [State.effMaxBasic, h]

/-- On a processor without the BOOT_NT4 bit its value does not matter. -/
theorem State.effMaxBasic_of_absent {s : State} (h : s.cfg.bootNt4Impl = false) :
    s.effMaxBasic = s.cfg.maxBasic := by
  simp [State.effMaxBasic, h]

/-- With BOOT_NT4 set the effective maximum is the smaller of MAX_BASIC and 3 (R48). -/
theorem State.effMaxBasic_of_set {s : State} (hi : s.cfg.bootNt4Impl = true)
    (hb : s.bootNt4 = true) : s.effMaxBasic.toNat = min s.cfg.maxBasic.toNat 3 := by
  unfold State.effMaxBasic
  rw [hi, hb, Bool.and_self, if_pos rfl]
  split
  · rename_i h
    exact (Nat.min_eq_left (BitVec.le_def.mp h)).symm
  · rename_i h
    exact (Nat.min_eq_right (Nat.le_of_not_le fun h' => h (BitVec.le_def.mpr h'))).symm

/-- The effective maximum depends on the configuration and the BOOT_NT4 bit alone. -/
theorem State.effMaxBasic_congr {s t : State} (hc : t.cfg = s.cfg) (hb : t.bootNt4 = s.bootNt4) :
    t.effMaxBasic = s.effMaxBasic := by
  unfold State.effMaxBasic
  rw [hc, hb]

/-- Leaf selection depends on the configuration and the BOOT_NT4 bit alone. -/
theorem State.selectLeaf_congr {s t : State} (hc : t.cfg = s.cfg) (hb : t.bootNt4 = s.bootNt4)
    (v : Word) : t.selectLeaf v = s.selectLeaf v := by
  unfold State.selectLeaf
  rw [State.effMaxBasic_congr hc hb, hc]

/-- The three ways an input selects a leaf. -/
theorem State.selectLeaf_cases (s : State) (v : Word) :
    (v ≤ s.effMaxBasic ∧ s.selectLeaf v = v) ∨
    (¬v ≤ s.effMaxBasic ∧ s.cfg.extImpl = true ∧ 0x80000000 ≤ v ∧ v ≤ s.cfg.maxExt ∧
      s.selectLeaf v = v) ∨
    (¬v ≤ s.effMaxBasic ∧ ¬(s.cfg.extImpl = true ∧ 0x80000000 ≤ v ∧ v ≤ s.cfg.maxExt) ∧
      s.selectLeaf v = s.effMaxBasic) := by
  unfold State.selectLeaf
  by_cases h : v ≤ s.effMaxBasic
  · exact .inl ⟨h, if_pos h⟩
  · rw [if_neg h]
    by_cases he : s.cfg.extImpl = true ∧ 0x80000000 ≤ v ∧ v ≤ s.cfg.maxExt
    · exact .inr (.inl ⟨h, he.1, he.2.1, he.2.2, if_pos (by simpa [and_assoc] using he)⟩)
    · exact .inr (.inr ⟨h, he, if_neg (by simpa [and_assoc] using he)⟩)

/-- The highest basic input selects itself. -/
@[simp] theorem State.selectLeaf_effMaxBasic (s : State) :
    s.selectLeaf s.effMaxBasic = s.effMaxBasic := by
  unfold State.selectLeaf
  rw [if_pos (BitVec.le_refl _)]

/-- Input 0 always selects leaf 0. -/
@[simp] theorem State.selectLeaf_zero (s : State) : s.selectLeaf 0 = 0 := by
  unfold State.selectLeaf
  exact if_pos (by simp [BitVec.le_def])

/-- The row of a leaf that has one. -/
theorem State.leafRow_basic0 (s : State) (c : Word) :
    s.leafRow 0 c = leaf0Row s.cfg s.effMaxBasic := rfl
theorem State.leafRow_basic1 (s : State) (c : Word) : s.leafRow 1 c = leaf1Row s.cfg := rfl
theorem State.leafRow_basic2 (s : State) (c : Word) : s.leafRow 2 c = leaf2Row s.cfg s.l2pos := rfl
theorem State.leafRow_basic3 (s : State) (c : Word) : s.leafRow 3 c = leaf3Row s.cfg := rfl
theorem State.leafRow_basic4 (s : State) (c : Word) : s.leafRow 4 c = leaf4Row s.cfg c := rfl
theorem State.leafRow_basic5 (s : State) (c : Word) : s.leafRow 5 c = leaf5Row s.cfg := rfl
theorem State.leafRow_ext0 (s : State) (c : Word) :
    s.leafRow 0x80000000 c = ext0Row s.cfg := rfl
theorem State.leafRow_ext1 (s : State) (c : Word) :
    s.leafRow 0x80000001 c = ext1Row s.cfg := rfl
theorem State.leafRow_ext2 (s : State) (c : Word) :
    s.leafRow 0x80000002 c = brandRow s.cfg 0 (by decide) := rfl
theorem State.leafRow_ext3 (s : State) (c : Word) :
    s.leafRow 0x80000003 c = brandRow s.cfg 16 (by decide) := rfl
theorem State.leafRow_ext4 (s : State) (c : Word) :
    s.leafRow 0x80000004 c = brandRow s.cfg 32 (by decide) := rfl
theorem State.leafRow_ext5 (s : State) (c : Word) : s.leafRow 0x80000005 c = zeroRow := rfl
theorem State.leafRow_ext6 (s : State) (c : Word) :
    s.leafRow 0x80000006 c = ext6Row s.cfg := rfl
theorem State.leafRow_ext7 (s : State) (c : Word) : s.leafRow 0x80000007 c = zeroRow := rfl
theorem State.leafRow_ext8 (s : State) (c : Word) : s.leafRow 0x80000008 c = zeroRow := rfl

/-- A word has a row of R49 only if the table lists it. -/
theorem Leaf.ofWord_cases (l : Word) : (l, Leaf.ofWord l) ∈ leafTable ∨ Leaf.ofWord l = .noContent := by
  have hmem : ∀ (t : List (Word × Leaf)) (x : Leaf), t.lookup l = some x → (l, x) ∈ t := by
    intro t x
    induction t with
    | nil => intro h; cases h
    | cons p t ih =>
      obtain ⟨k, y⟩ := p
      intro h
      rw [List.lookup_cons] at h
      split at h
      · rename_i hk
        cases h
        rw [show l = k by simpa using hk]
        exact List.mem_cons_self
      · exact List.mem_cons_of_mem _ (ih h)
  unfold Leaf.ofWord
  cases h : leafTable.lookup l with
  | none => exact .inr rfl
  | some x => exact .inl (hmem _ _ h)

/-- Only leaf 4 has the row that reads ECX. -/
theorem Leaf.ofWord_basic4 {l : Word} (h : Leaf.ofWord l = .basic4) : l = 4 := by
  rcases Leaf.ofWord_cases l with h' | h'
  · rw [h] at h'
    simpa [leafTable] using h'
  · rw [h] at h'
    cases h'

/-- No row but leaf 4's depends on ECX. -/
theorem State.leafRow_ecx (s : State) {l : Word} (a b : Word) (h : l ≠ 4) :
    s.leafRow l a = s.leafRow l b := by
  unfold State.leafRow
  split <;> try rfl
  rename_i h4
  exact absurd (Leaf.ofWord_basic4 h4) h

/-- A row without a free register is its values at every execution. -/
@[simp] theorem LeafRow.resolve_ofQuad (q : Quad) (n : Nat) : (LeafRow.ofQuad q).resolve n = q := rfl

@[simp] theorem LeafWord.resolve_value (w : Word) (p : FreeSlot) (n : Nat) :
    (LeafWord.value w).resolve p n = w := rfl

/-- A register that a row gives a value receives it. -/
theorem LeafRow.resolve_word {row : LeafRow} {r : Reg} {w : Word} (s : State) (n : Nat)
    (h : row.word r = .value w) : (s.setRegs (row.resolve n)).readReg r = w := by
  cases r <;> simp only [LeafRow.word] at h <;>
    simp [State.readReg, LeafRow.resolve, h]

/-- The leaf-2 image at any position is one of the images. -/
theorem Config.leaf2At_mem (c : Config) (pos : Nat) : c.leaf2At pos ∈ c.leaf2Images := by
  have h : pos % c.leaf2Count < c.leaf2Images.length := by
    simpa [Config.leaf2Images, Config.leaf2Count] using Nat.mod_lt pos (Nat.succ_pos _)
  unfold Config.leaf2At
  rw [List.getD_eq_getElem _ _ h]
  exact List.getElem_mem h

/-- With one image every position holds it. -/
theorem Config.leaf2At_single {c : Config} (h : c.leaf2More = []) (pos : Nat) :
    c.leaf2At pos = c.leaf2First := by
  simp [Config.leaf2At, Config.leaf2Images, Config.leaf2Count, h, Nat.mod_one]

/-! ## CPUID -/

@[simp] theorem exec_cpuid (s : State) : exec .cpuid s = execCpuid s := rfl

/-- CPUID completes exactly where it is implemented, and its next state is `afterCpuid`. -/
theorem execCpuid_next_iff {s t : State} :
    execCpuid s = .next t ↔ s.cfg.cpuidImpl = true ∧ t = s.afterCpuid := by
  unfold execCpuid raiseInvalidOpcode
  split
  · rename_i h
    exact ⟨fun e => ⟨h, by injection e with e; exact e.symm⟩, fun e => by rw [e.2]⟩
  · rename_i h
    exact ⟨fun e => (nomatch e), fun e => absurd e.1 h⟩

theorem execCpuid_of_impl {s : State} (h : s.cfg.cpuidImpl = true) :
    execCpuid s = .next s.afterCpuid :=
  execCpuid_next_iff.mpr ⟨h, rfl⟩

theorem execCpuid_of_not_impl {s : State} (h : s.cfg.cpuidImpl = false) :
    execCpuid s = .fault .invalidOpcode := by
  unfold execCpuid raiseInvalidOpcode
  rw [if_neg (by simp [h])]

/-- The whole next state of CPUID, as one record. -/
theorem State.afterCpuid_eq (s : State) :
    s.afterCpuid =
      { s with
        regs := s.cpuidResult
        pc := s.pc + 2
        biosSignId := s.loadedSignature
        l2pos := s.nextLeaf2Position
        draws := s.draws + 1 } := rfl

/-- EAX matters through the leaf it selects alone. -/
theorem execCpuid_writeReg_eax_congr {s : State} {v w : Word} (h : s.selectLeaf v = s.selectLeaf w) :
    execCpuid (s.writeReg .eax v) = execCpuid (s.writeReg .eax w) := by
  have hsel : (s.writeReg .eax v).selectedLeaf = (s.writeReg .eax w).selectedLeaf := h
  cases hc : s.cfg.cpuidImpl
  · rw [execCpuid_of_not_impl (s := s.writeReg .eax v) hc,
      execCpuid_of_not_impl (s := s.writeReg .eax w) hc]
  · rw [execCpuid_of_impl (s := s.writeReg .eax v) hc,
      execCpuid_of_impl (s := s.writeReg .eax w) hc, State.afterCpuid_eq, State.afterCpuid_eq]
    unfold State.cpuidResult State.nextLeaf2Position
    rw [hsel]
    rfl

/-- The next leaf-2 position is one of the images' if the old one was. -/
theorem State.nextLeaf2Position_lt {s : State} (h : s.l2pos < s.cfg.leaf2Count) :
    s.nextLeaf2Position < s.cfg.leaf2Count := by
  unfold State.nextLeaf2Position
  split
  · exact Nat.mod_lt _ (Nat.succ_pos _)
  · exact h

/-- With the update facility, what software reads as the update signature after CPUID. -/
theorem State.afterCpuid_updateSignature {s : State} (h : s.cfg.ucodeImpl = true) :
    s.afterCpuid.updateSignature = s.ucodeSig := by
  unfold State.updateSignature
  rw [State.afterCpuid_biosSignId, State.loadedSignature, if_pos h]
  exact BitVec.extractLsb'_append_eq_left

/-- Without the update facility the signature register is untouched. -/
theorem State.loadedSignature_of_not {s : State} (h : s.cfg.ucodeImpl = false) :
    s.loadedSignature = s.biosSignId := by
  simp [State.loadedSignature, h]

/-! ## Fetch and step -/

/-- The fetch's bytes, when it has any. -/
theorem State.fetchBytes_ok {s : State} {p : Byte × Byte} (h : s.fetchBytes = .ok p) :
    s.pc ≠ 0xFFFFFFFF ∧ s.mem.readByte s.pc.toNat = some p.1 ∧
      s.mem.readByte (s.pc + 1).toNat = some p.2 := by
  unfold State.fetchBytes at h
  split at h
  · cases h
  · rename_i hpc
    split at h
    · rename_i b0 b1 h0 h1
      cases h
      exact ⟨hpc, h0, h1⟩
    · cases h
    · cases h

/-- The fetch's bytes, where they stand. -/
theorem State.fetchBytes_of {s : State} {b0 b1 : Byte} (hpc : s.pc ≠ 0xFFFFFFFF)
    (h0 : s.mem.readByte s.pc.toNat = some b0) (h1 : s.mem.readByte (s.pc + 1).toNat = some b1) :
    s.fetchBytes = .ok (b0, b1) := by
  unfold State.fetchBytes
  rw [if_neg hpc, h0, h1]

/-- The fetch depends on the program counter and memory alone. -/
theorem State.fetch_congr {s t : State} (hp : t.pc = s.pc) (hm : t.mem = s.mem) :
    t.fetch = s.fetch := by
  unfold State.fetch State.fetchBytes
  rw [hp, hm]

/-- A step that answers next ran an instruction that was fetched. -/
theorem step_next {s t : State} (h : step s = .next t) :
    ∃ i, s.fetch = .ok i ∧ exec i s = .next t := by
  unfold step at h
  split at h
  · rename_i i hi
    exact ⟨i, hi, h⟩
  · cases h

/-- The only next state of a step is CPUID's. -/
theorem step_next_afterCpuid {s t : State} (h : step s = .next t) :
    s.cfg.cpuidImpl = true ∧ t = s.afterCpuid := by
  obtain ⟨i, -, he⟩ := step_next h
  cases i
  exact execCpuid_next_iff.mp he

/-! ## Runs -/

@[simp] theorem runSteps_zero (s : State) : Safety.runSteps 0 s = .next s := rfl

theorem runSteps_of_next {s t : State} (n : Nat) (h : step s = .next t) :
    Safety.runSteps (n + 1) s = Safety.runSteps n t := by
  rw [Safety.runSteps, h]

/-- A run of one step more that answers next took a first step. -/
theorem runSteps_succ_next {n : Nat} {s t : State} (h : Safety.runSteps (n + 1) s = .next t) :
    ∃ u, step s = .next u ∧ Safety.runSteps n u = .next t := by
  unfold Safety.runSteps at h
  split at h
  · rename_i u hu
    exact ⟨u, hu, h⟩
  · cases h
  · cases h

/-- One step of the host's run, by its three outcomes, for any core. -/
theorem hostRun_of_next {M : Host.Core} {s t : M.State} (n : Nat) (h : M.step s = .next t) :
    M.run (n + 1) s = M.run n t := by
  rw [Host.Core.run, h]

theorem hostRun_of_fault {M : Host.Core} {s : M.State} {r : M.Fault} (n : Nat)
    (h : M.step s = .fault r) : M.run (n + 1) s = .fault r := by
  rw [Host.Core.run, h]

theorem hostRun_of_refused {M : Host.Core} {s : M.State} {r : M.Refusal} (n : Nat)
    (h : M.step s = .refused r) : M.run (n + 1) s = .refused r := by
  rw [Host.Core.run, h]

/-- `runSteps` is the host's run of the core. -/
theorem runSteps_eq_core_run (n : Nat) (s : State) : Safety.runSteps n s = core.run n s := by
  induction n generalizing s with
  | zero => rfl
  | succ n ih =>
    unfold Safety.runSteps
    split
    · rename_i t h
      exact (ih t).trans (hostRun_of_next (M := core) n h).symm
    · rename_i r h
      exact (hostRun_of_fault (M := core) n h).symm
    · rename_i r h
      exact (hostRun_of_refused (M := core) n h).symm

end Sys2Proof.Machine
end

