-- ==== Sys2Proof/Laws/Memory.lean ====
section
/-! SUPPORT. Memory: reading after writing, and every operation keeps the canonical form. -/

namespace Sys2Proof.Machine

theorem Memory.wfFrom_mono {lo lo' : Nat} {m : Memory} (h : Memory.wfFrom lo m = true)
    (hle : lo' ≤ lo) : Memory.wfFrom lo' m = true := by
  cases m with
  | nil => rfl
  | cons c rest =>
    simp only [Memory.wfFrom, Bool.and_eq_true, decide_eq_true_eq] at h ⊢
    exact ⟨⟨by omega, h.1.2⟩, h.2⟩

theorem Memory.insertByte_wfFrom {m : Memory} {lo a : Nat} (b : Byte)
    (h : Memory.wfFrom lo m = true) (hlo : lo ≤ a) (ha : a < 2 ^ 32) :
    Memory.wfFrom lo (m.insertByte a b) = true := by
  induction m generalizing lo with
  | nil => simp [Memory.insertByte, Memory.wfFrom, hlo]; omega
  | cons c rest ih =>
    have hc := h
    simp only [Memory.wfFrom, Bool.and_eq_true, decide_eq_true_eq] at hc
    obtain ⟨⟨h1, h2⟩, h3⟩ := hc
    unfold Memory.insertByte
    split
    · rename_i hlt
      simp only [Memory.wfFrom, Bool.and_eq_true, decide_eq_true_eq]
      exact ⟨⟨hlo, ha⟩, ⟨by omega, h2⟩, h3⟩
    · rename_i hnlt
      split
      · rename_i heq
        subst heq
        simp only [Memory.wfFrom, Bool.and_eq_true, decide_eq_true_eq]
        exact ⟨⟨hlo, ha⟩, h3⟩
      · rename_i hne
        simp only [Memory.wfFrom, Bool.and_eq_true, decide_eq_true_eq]
        exact ⟨⟨h1, h2⟩, ih h3 (by omega)⟩

/-- Writing a byte keeps the canonical form. -/
theorem Memory.writeByte_wf {m : Memory} (a : Word) (b : Byte) (h : m.wf = true) :
    (m.writeByte a b).wf = true :=
  Memory.insertByte_wfFrom b h (Nat.zero_le _) a.isLt

theorem Memory.writeBytes_go_wf {bs : List Byte} {m : Memory} {a : Nat} (h : m.wf = true)
    (ha : a + bs.length ≤ 2 ^ 32) : (Memory.writeBytes.go m a bs).wf = true := by
  induction bs generalizing m a with
  | nil => exact h
  | cons b rest ih =>
    rw [List.length_cons] at ha
    exact ih (Memory.insertByte_wfFrom b h (Nat.zero_le _) (by omega)) (by omega)

/-- Writing bytes keeps the canonical form. -/
theorem Memory.writeBytes_wf {m m' : Memory} {a : Word} {bs : List Byte} (h : m.wf = true)
    (hw : m.writeBytes a bs = some m') : m'.wf = true := by
  unfold Memory.writeBytes at hw
  split at hw
  · rename_i hle
    cases hw
    exact Memory.writeBytes_go_wf h hle
  · cases hw

/-- Writing a 32-bit value keeps the canonical form. -/
theorem Memory.writeDword_wf {m m' : Memory} {a v : Word} (h : m.wf = true)
    (hw : m.writeDword a v = some m') : m'.wf = true :=
  Memory.writeBytes_wf h hw

/-- A byte written is the byte read there. -/
@[simp] theorem Memory.readByte_insertByte_same (m : Memory) (a : Nat) (b : Byte) :
    (m.insertByte a b).readByte a = some b := by
  induction m with
  | nil => simp [Memory.insertByte, Memory.readByte]
  | cons c rest ih =>
    unfold Memory.insertByte
    split
    · simp [Memory.readByte]
    · split
      · simp [Memory.readByte]
      · simp only [Memory.readByte, ih]
        split <;> simp_all

/-- A byte written is read nowhere else. -/
theorem Memory.readByte_insertByte_other (m : Memory) {a a' : Nat} (b : Byte) (h : a' ≠ a) :
    (m.insertByte a b).readByte a' = m.readByte a' := by
  induction m with
  | nil => simp [Memory.insertByte, Memory.readByte, h]
  | cons c rest ih =>
    unfold Memory.insertByte
    split
    · simp [Memory.readByte, h]
    · split
      · rename_i heq
        subst heq
        simp [Memory.readByte, h]
      · simp only [Memory.readByte, ih]

/-- Bytes written from a on leave every address outside them alone. -/
theorem Memory.readByte_writeBytes_go_other {bs : List Byte} {m : Memory} {a a' : Nat}
    (h : a' < a ∨ a + bs.length ≤ a') :
    (Memory.writeBytes.go m a bs).readByte a' = m.readByte a' := by
  induction bs generalizing m a with
  | nil => rfl
  | cons b rest ih =>
    rw [List.length_cons] at h
    rw [Memory.writeBytes.go, ih (by omega), Memory.readByte_insertByte_other _ _ (by omega)]

/-- Bytes written from a on are what is read there. -/
theorem Memory.readByte_writeBytes_go {bs : List Byte} {m : Memory} {a k : Nat}
    (h : k < bs.length) : (Memory.writeBytes.go m a bs).readByte (a + k) = some bs[k] := by
  induction bs generalizing m a k with
  | nil => simp at h
  | cons b rest ih =>
    cases k with
    | zero =>
      rw [Memory.writeBytes.go, Nat.add_zero, Memory.readByte_writeBytes_go_other (by omega)]
      simp
    | succ k =>
      have := ih (m := m.insertByte a b) (a := a + 1) (k := k) (by simpa using h)
      rw [Memory.writeBytes.go, show a + (k + 1) = a + 1 + k by omega, this]
      simp

/-- A 32-bit value is written exactly where its four bytes fit below the top. -/
theorem Memory.writeDword_some {m m' : Memory} {a v : Word} (h : m.writeDword a v = some m') :
    a.toNat + 4 ≤ 2 ^ 32 ∧ m' = Memory.writeBytes.go m a.toNat (dwordBytes v) := by
  unfold Memory.writeDword Memory.writeBytes at h
  split at h
  · rename_i hle
    cases h
    exact ⟨hle, rfl⟩
  · cases h

/-- Reading n bytes that are all held. -/
theorem Memory.readBytes_go_of {m : Memory} {a n : Nat} {l : List Byte} (hl : l.length = n)
    (h : ∀ k (hk : k < n), m.readByte (a + k) = some (l[k]'(by omega))) :
    Memory.readBytes.go m a n = some l := by
  induction n generalizing a l with
  | zero =>
    rw [List.length_eq_zero_iff] at hl
    subst hl
    rfl
  | succ n ih =>
    cases l with
    | nil => cases hl
    | cons b l =>
      have h0 := h 0 (by omega)
      rw [Nat.add_zero] at h0
      have hrest : ∀ k (hk : k < n), m.readByte (a + 1 + k) =
          some (l[k]'(by rw [List.length_cons] at hl; omega)) := by
        intro k hk
        rw [show a + 1 + k = a + (k + 1) by omega, h (k + 1) (by omega)]
        rfl
      unfold Memory.readBytes.go
      rw [h0, ih (by simpa using hl) hrest]
      rfl

end Sys2Proof.Machine
end

