-- ==== Sys2Proof/Laws/PerInstr.lean ====
section
/-! SUPPORT. Statements made for every instruction, one lemma per constructor. -/

/-- An instruction is well formed and its bytes are two, whose word is a pattern of the opcode table
under its mask (R37, R38). -/
def Sys2Proof.Laws.OpcodeLength.Statement (i : Sys2Proof.Instr) : Prop :=
  i.wf = true ∧ (Sys2Proof.encode i).length = 2 ∧
    ∃ r ∈ Sys2Proof.opcodeTable, r.instr = i ∧ Sys2Proof.encodeWord i &&& r.mask = r.pattern

theorem Sys2Proof.Laws.OpcodeLength.cpuid : Sys2Proof.Laws.OpcodeLength.Statement .cpuid :=
  ⟨rfl, rfl, ⟨0xFFFF, 0x0FA2, .cpuid⟩, by decide, rfl, by decide⟩
end

