-- ==== Sys2Proof/Laws/Software.lean ====
section
/-! SUPPORT. What one execution of CPUID by a procedure of software can do. -/

namespace Sys2Proof.Machine

/-- An extended input up to MAX_EXT selects itself. -/
theorem State.selectLeaf_of_ext {s : State} (hx : s.cfg.extImpl = true) {v : Word}
    (h1 : 0x80000000 ≤ v) (h2 : v ≤ s.cfg.maxExt) : s.selectLeaf v = v := by
  rcases s.selectLeaf_cases v with h | h | h
  · exact h.2
  · exact h.2.2.2.2
  · exact absurd ⟨hx, h1, h2⟩ h.2.1

/-- A basic input up to the effective maximum selects itself. -/
theorem State.selectLeaf_of_le {s : State} {v : Word} (h : v ≤ s.effMaxBasic) :
    s.selectLeaf v = v := by
  unfold State.selectLeaf
  rw [if_pos h]

/-- A register written does not change which leaf an input selects. -/
@[simp] theorem State.selectLeaf_writeReg (s : State) (r : Reg) (w v : Word) :
    (s.writeReg r w).selectLeaf v = s.selectLeaf v := by
  cases r <;> rfl

/-- One execution with a given input: it answers exactly where CPUID is implemented, and then the
registers are the selected leaf's and the configuration and BOOT_NT4 are as before. -/
theorem State.cpuidWith_of_impl {s : State} (h : s.cfg.cpuidImpl = true) (v : Word) :
    ∃ t, s.cpuidWith v = some t ∧ t.cfg = s.cfg ∧ t.bootNt4 = s.bootNt4 ∧
      t.regs = (s.leafRow (s.selectLeaf v) s.regs.ecx).resolve s.draws := by
  refine ⟨(s.writeReg .eax v).afterCpuid, ?_, rfl, rfl, rfl⟩
  unfold State.cpuidWith
  rw [execCpuid_of_impl (s := s.writeReg .eax v) h]

theorem State.cpuidWith_of_not_impl {s : State} (h : s.cfg.cpuidImpl = false) (v : Word) :
    s.cpuidWith v = none := by
  unfold State.cpuidWith
  rw [execCpuid_of_not_impl (s := s.writeReg .eax v) h]

/-- Leaf 1 can always be selected: MAX_BASIC is at least 1 (R4), and BOOT_NT4 hides nothing below 4. -/
theorem State.one_le_effMaxBasic {s : State} (h : s.cfg.cpuidImpl = true)
    (hw : s.cfg.wf = true) : 1 ≤ s.effMaxBasic := by
  have h1 : 1 ≤ s.cfg.maxBasic := by
    have hm : s.cfg.maxBasicOk = true := by
      simp only [Config.wf, Bool.and_eq_true] at hw
      exact hw.1.1.1.1.1.1
    simpa [Config.maxBasicOk, h] using hm
  unfold State.effMaxBasic
  split
  · split
    · exact h1
    · decide
  · exact h1

/-- What software finds in leaf 1: the signature in EAX and the brand index in EBX (R59, R63). -/
theorem State.cpuidWith_one {s : State} (h : s.cfg.cpuidImpl = true) (hw : s.cfg.wf = true) :
    ∃ t, s.cpuidWith 1 = some t ∧ t.regs.eax = s.cfg.version ∧
      (leaf1Ebx t.regs.ebx).brandIndex = s.cfg.brandIndex := by
  obtain ⟨t, ht, -, -, hr⟩ := State.cpuidWith_of_impl h 1
  rw [State.selectLeaf_of_le (State.one_le_effMaxBasic h hw), State.leafRow_basic1] at hr
  refine ⟨t, ht, by rw [hr]; rfl, ?_⟩
  have hb := dwordBytes_dwordOfBytes s.cfg.brandIndex s.cfg.clflushLine s.cfg.logicalCount
    s.cfg.apicId
  rw [hr]
  exact (List.cons.inj hb).1

/-- The bytes of a leaf of the brand string (R86). -/
theorem quadBytes_brandRow (c : Config) {k : Nat} (h : k + 15 < 48) (n : Nat) :
    quadBytes ((brandRow c k h).resolve n) = (c.brandString.toList.drop k).take 16 := by
  unfold quadBytes
  simp only [brandRow, LeafRow.resolve, LeafWord.resolve_value, dwordBytes_pack4_take]
  rw [show (16 : Nat) = 4 + (4 + (4 + 4)) from rfl, List.take_add, List.take_add, List.take_add]
  simp [List.drop_drop, List.append_assoc]

/-- One turn of the cache enumeration, where leaf 4 can be selected: it stops at an index without a
cache, and otherwise lists the index's parameters and goes on in a state of the same configuration. -/
theorem enumerateCaches_succ {s : State} (h : s.cfg.cpuidImpl = true)
    (h4 : 4 ≤ s.effMaxBasic.toNat) (fuel : Nat) (index : Word) :
    ∃ t : State, t.cfg = s.cfg ∧ t.effMaxBasic = s.effMaxBasic ∧
      enumerateCaches (fuel + 1) index s =
        if cacheType (s.cfg.leaf4At index).eax = .noMoreCaches then []
        else cacheParameters (s.cfg.leaf4At index) :: enumerateCaches fuel (index + 1) t := by
  obtain ⟨t, ht, hc, hb, hr⟩ := State.cpuidWith_of_impl (s := s.writeReg .ecx index) h 4
  have hsel : (s.writeReg .ecx index).selectLeaf 4 = 4 := State.selectLeaf_of_le h4
  rw [hsel, State.leafRow_basic4] at hr
  have hregs : t.regs = s.cfg.leaf4At index := hr
  refine ⟨t, hc, State.effMaxBasic_congr (s := s) hc hb, ?_⟩
  rw [enumerateCaches, ht, ← hregs]
  rfl

end Sys2Proof.Machine
end

