-- ==== Sys2Proof/Laws/Tables.lean ====
section
/-! SUPPORT. The processor rows of R2, and the descriptors of one register. -/

namespace Sys2Proof

/-- What it is to have the maxima of a row whose basic column has a value. -/
theorem Config.maximaOfRow_some {c : Config} {r : ProcessorRow} {m : Word}
    (h : c.maximaOfRow r = true) (hm : r.maxBasic = some m) :
    c.cpuidImpl = true ∧ c.maxBasic = m := by
  unfold Config.maximaOfRow at h
  rw [hm] at h
  simpa using (Bool.and_eq_true_iff.mp h).1

/-- What it is to have the maxima of a row whose extended column is "Not Implemented". -/
theorem Config.maximaOfRow_no_ext {c : Config} {r : ProcessorRow} (h : c.maximaOfRow r = true)
    (he : r.maxExt = none) : c.extImpl = false := by
  unfold Config.maximaOfRow at h
  rw [he] at h
  simpa using (Bool.and_eq_true_iff.mp h).2

/-- What it is to have the maxima of a row whose extended column has a value. -/
theorem Config.maximaOfRow_ext {c : Config} {r : ProcessorRow} {e : Word}
    (h : c.maximaOfRow r = true) (he : r.maxExt = some e) :
    c.extImpl = true ∧ c.maxExt = e := by
  unfold Config.maximaOfRow at h
  rw [he] at h
  simpa using (Bool.and_eq_true_iff.mp h).2

/-- What a row of R2 fixes. -/
theorem Config.ofRow_iff {c : Config} {r : ProcessorRow} :
    c.ofRow r = true ↔
      c.maximaOfRow r = true ∧ c.vendor = Config.genuineIntel ∧
        (r = .pentium4HyperThreading → c.logicalCount = 2) ∧
        (c.psnImpl = true → r = .pentiumIII) := by
  simp only [Config.ofRow, Bool.and_eq_true, Bool.or_eq_true, beq_iff_eq, bne_iff_ne,
    Bool.not_eq_true', and_assoc]
  refine and_congr_right fun _ => and_congr_right fun _ => and_congr ?_ ?_
  · exact ⟨fun h hr => h.resolve_left fun hn => hn hr, fun h => or_iff_not_imp_left.mpr
      fun hn => h (not_not.mp hn)⟩
  · cases c.psnImpl <;> simp

namespace Machine

/-- A register with bit 31 set holds no descriptor (R78). -/
theorem registerDescriptors_of_invalid {r : Word} (h : r.getLsbD 31 = true) (bytes : List Nat) :
    registerDescriptors r bytes = [] := by
  unfold registerDescriptors descriptorsValid
  rw [h]
  rfl

/-- A register's descriptors are the nonzero bytes of a valid register (R78, R79, R82). -/
theorem mem_registerDescriptors {r : Word} {bytes : List Nat} {d : Byte} :
    d ∈ registerDescriptors r bytes ↔
      r.getLsbD 31 = false ∧ d ≠ 0 ∧ ∃ k ∈ bytes, byteOf r k = d := by
  unfold registerDescriptors descriptorsValid
  cases h : r.getLsbD 31 <;> simp [and_comm]

/-- A descriptor is listed as often as it stands in the given bytes of a valid register. -/
theorem registerDescriptors_count (r : Word) (bytes : List Nat) {d : Byte} (hd : d ≠ 0) :
    (registerDescriptors r bytes).count d =
      (bytes.map fun k => (r, k)).countP fun p =>
        p.1.getLsbD 31 == false && p.1.toNat / 256 ^ p.2 % 256 == d.toNat := by
  have e : ∀ k, (r.toNat / 256 ^ k % 256 == d.toNat) = (byteOf r k == d) := by
    intro k
    rw [← toNat_byteOf, Bool.eq_iff_iff, beq_iff_eq, beq_iff_eq, BitVec.toNat_inj]
  rw [List.countP_map]
  cases h : r.getLsbD 31 with
  | true =>
    rw [registerDescriptors_of_invalid h, List.count_nil]
    refine (List.countP_eq_zero.mpr fun k _ => ?_).symm
    simp only [Function.comp, h]
    exact Bool.false_ne_true
  | false =>
    have hr : registerDescriptors r bytes = (bytes.map (byteOf r)).filter (· != 0) := by
      unfold registerDescriptors descriptorsValid
      rw [h]
      rfl
    rw [hr, List.count_filter (by simpa using hd), List.count, List.countP_map]
    congr 1
    funext k
    simp only [Function.comp, h, e, beq_self_eq_true, Bool.true_and]

/-- A register gives at most one descriptor for a byte. -/
theorem registerDescriptors_length_le (r : Word) (bytes : List Nat) :
    (registerDescriptors r bytes).length ≤ bytes.length := by
  unfold registerDescriptors
  split
  · exact (List.length_filter_le _ _).trans (by simp)
  · simp

end Machine

end Sys2Proof
end

