-- ==== Sys2Proof/Tests/Slice0.lean ====
section
/-! SUPPORT. Tests against spec/95_test_vectors.md, the refusals of the well-formedness checks, and
for every statement with hypotheses a state that meets them. -/

namespace Sys2Proof.Tests
open Sys2Proof.Machine Sys2Proof.Safety

/-! ## The profiles of 95 section 1 (P4_FIRST is `Config.p4First`) -/

/-- 14 spaces, "Intel(R) Pentium(R) 4 CPU 3.20GHz", NUL. -/
def t1Brand : Vector Byte 48 :=
  #v[0x20, 0x20, 0x20, 0x20, 0x20, 0x20, 0x20, 0x20, 0x20, 0x20, 0x20, 0x20, 0x20, 0x20, 0x49, 0x6E,
    0x74, 0x65, 0x6C, 0x28, 0x52, 0x29, 0x20, 0x50, 0x65, 0x6E, 0x74, 0x69, 0x75, 0x6D, 0x28, 0x52,
    0x29, 0x20, 0x34, 0x20, 0x43, 0x50, 0x55, 0x20, 0x33, 0x2E, 0x32, 0x30, 0x47, 0x48, 0x7A, 0x00]

def t1 : Config :=
  { Config.p4First with
    maxBasic := 5, maxExt := 0x80000008, version := 0x00000F34, brandIndex := 0x09,
    logicalCount := 0x02, apicId := 0x01, featEcx := 0x00000419, featEdx := 0xBFEBFBFF,
    leaf2First := ⟨0x605B5001, 0, 0, 0x007C7040⟩,
    leaf4Listed := [(0, ⟨0x00004121, 0x01C0003F, 0x0000001F, 0⟩),
      (1, ⟨0x00004143, 0x01C0003F, 0x000007FF, 0⟩)],
    monMin := 0x0040, monMax := 0x0040, brandString := t1Brand, l2Info := 0x04008040,
    bootNt4Impl := true }

def piii : Config :=
  { Config.p4First with
    maxBasic := 3, extImpl := false, maxExt := 0, version := 0x00000683, brandIndex := 0x02,
    clflushLine := 0, featEdx := 0x0387FBFF, leaf2First := ⟨0x03020101, 0, 0, 0x0C040882⟩,
    psnImpl := true, psnLow := 0x89ABCDEF, psnHigh := 0x01234567 }

def p5 : Config :=
  { Config.p4First with
    maxBasic := 1, extImpl := false, maxExt := 0, version := 0x00000543, brandIndex := 0,
    clflushLine := 0, featEdx := 0x008001BF, ucodeImpl := false }

def i486e : Config :=
  { p5 with cpuidImpl := false }

/-- T1 with a second leaf-2 image, both counting 2. -/
def twoImages : Config :=
  { t1 with
    leaf2First := ⟨0x605B5002, 0, 0, 0x007C7040⟩, leaf2More := [⟨0x00000002, 0, 0, 0x00000066⟩] }

/-- T1 with a basic maximum of 7, above what the source gives content for. -/
def beyond : Config :=
  { t1 with maxBasic := 7 }

/-- The reset state on another processor with values in EAX and ECX. -/
def onCpu (c : Config) (eax ecx : Word) : State :=
  { State.reset with cfg := c, regs := ⟨eax, 0xDEADBEEF, ecx, 0xDEADBEEF⟩ }

/-- BOOT_NT4 set. -/
def bootNt4Set (s : State) : State :=
  { s with miscEnable := 0x400000 }

/-- `0F A2` at the program counter. -/
def text (s : State) : State :=
  s.withFetchWord 16 0x0FA2

def nextOf : Host.Outcome State Fault Refusal → Option State
  | .next s => some s
  | .fault _ => none
  | .refused _ => none

/-- One expected register: none where the vector says `any`. -/
def agrees (got : Word) : Option Word → Bool
  | none => true
  | some w => got == w

/-- A row of 95 section 3: EAX and ECX before, and the four registers after. -/
structure Vec where
  eax : Word
  ecx : Word
  a : Option Word
  b : Option Word
  c : Option Word
  d : Option Word

/-- Whether CPUID gives a vector's registers. -/
def Vec.ok (v : Vec) (s : State) : Bool :=
  match nextOf (execCpuid { s with regs := ⟨v.eax, 0xDEADBEEF, v.ecx, 0xDEADBEEF⟩ }) with
  | none => false
  | some t =>
    agrees t.regs.eax v.a && agrees t.regs.ebx v.b && agrees t.regs.ecx v.c && agrees t.regs.edx v.d

def v4 (eax ecx a b c d : Word) : Vec :=
  ⟨eax, ecx, some a, some b, some c, some d⟩

/-! ## Decoding: the words of 30 R37 and 95 E1 to E4, written out -/

theorem test_decode_cpuid : decode [0b00001111, 0b10100010] = .ok (.cpuid, []) := by decide

theorem test_decode_table_word : decodeTableWord 16 0b0000111110100010 = some .cpuid := by decide

theorem test_decode_swapped_refused : decode [0xA2, 0x0F] = .error (.noRow 0xA2 0x0F) := by decide

theorem test_decode_lock_refused : decode [0xF0, 0x0F, 0xA2] = .error (.prefixed 0xF0) := by decide

/-! ## Well-formedness: every check refuses a configuration that breaks it alone -/

theorem test_wf_profiles :
    [Config.p4First, t1, piii, p5, i486e, twoImages, beyond].all Config.wf = true := by decide

theorem test_wf_maxBasic : ({ t1 with maxBasic := 0 } : Config).wf = false := by decide

theorem test_wf_maxExt : ({ t1 with maxExt := 0x7FFFFFFF } : Config).wf = false := by decide

theorem test_wf_leaf2_count : ({ t1 with leaf2More := [Quad.zero] } : Config).wf = false := by decide

theorem test_wf_psn : ({ t1 with psnImpl := true } : Config).wf = false := by decide

theorem test_wf_leaf4_edx : ({ t1 with leaf4Rest := ⟨0, 0, 0, 1⟩ } : Config).wf = false := by decide

theorem test_wf_leaf4_end : ({ t1 with leaf4Rest := ⟨1, 0, 0, 0⟩ } : Config).wf = false := by decide

theorem test_wf_brand :
    ({ t1 with brandString := Vector.replicate 48 0x20 } : Config).wf = false := by decide

/-! ## One execution of CPUID: the vectors of 95 section 3 -/

/-- V1 to V14. -/
theorem test_vectors_p4First :
    ([v4 0 9 2 0x756E6547 0x6C65746E 0x49656E69,
      v4 1 9 0x00000F00 0x00000808 0 0x2FEBFBFF,
      v4 2 9 0x665B5001 0 0 0x007A7000,
      v4 3 9 0x665B5001 0 0 0x007A7000,
      v4 5 9 0x665B5001 0 0 0x007A7000,
      v4 0x7FFFFFFF 9 0x665B5001 0 0 0x007A7000,
      ⟨0x80000000, 9, some 0x80000004, none, none, none⟩,
      ⟨0x80000001, 9, some 0, none, none, none⟩,
      v4 0x80000002 9 0x20202020 0x20202020 0x20202020 0x6E492020,
      v4 0x80000003 9 0x286C6574 0x50202952 0x69746E65 0x52286D75,
      v4 0x80000004 9 0x20342029 0x20555043 0x30303531 0x007A484D,
      v4 0x80000005 9 0x665B5001 0 0 0x007A7000,
      v4 0xFFFFFFFF 9 0x665B5001 0 0 0x007A7000] : List Vec).all
      (fun v => v.ok State.reset) = true := by decide

/-- V15 to V33. -/
theorem test_vectors_t1 :
    ([v4 0 0 5 0x756E6547 0x6C65746E 0x49656E69,
      v4 1 0 0x00000F34 0x01020809 0x00000419 0xBFEBFBFF,
      v4 2 0 0x605B5001 0 0 0x007C7040,
      v4 4 0 0x00004121 0x01C0003F 0x0000001F 0,
      v4 4 1 0x00004143 0x01C0003F 0x000007FF 0,
      v4 4 0xFFFFFFFF 0 0 0 0,
      v4 5 0 0x40 0x40 0 0,
      v4 6 0 0x40 0x40 0 0,
      v4 0x80000004 0 0x20342029 0x20555043 0x30322E33 0x007A4847,
      v4 0x80000005 0 0 0 0 0,
      v4 0x80000006 0 0 0 0x04008040 0,
      v4 0x80000007 0 0 0 0 0,
      v4 0x80000008 0 0 0 0 0,
      v4 0x80000009 0 0x40 0x40 0 0,
      v4 0xFFFFFFFF 1 0x40 0x40 0 0] : List Vec).all (fun v => v.ok (onCpu t1 0 0)) = true := by decide

/-- V34, V35, V39, V40: BOOT_NT4 set. -/
theorem test_vectors_t1_bootNt4 :
    ([v4 0 0 3 0x756E6547 0x6C65746E 0x49656E69,
      v4 1 0 0x00000F34 0x01020809 0x00000419 0xBFEBFBFF,
      ⟨4, 0, none, none, none, none⟩,
      ⟨0x80000000, 0, some 0x80000008, none, none, none⟩,
      v4 0x80000006 0 0 0 0x04008040 0] : List Vec).all
      (fun v => v.ok (bootNt4Set (onCpu t1 0 0))) = true := by decide

/-- V41 to V51. -/
theorem test_vectors_older :
    ([v4 0 0 3 0x756E6547 0x6C65746E 0x49656E69,
      v4 1 0 0x00000683 0x00000002 0 0x0387FBFF,
      v4 2 0 0x03020101 0 0 0x0C040882,
      ⟨3, 0, none, none, some 0x89ABCDEF, some 0x01234567⟩,
      ⟨0x80000000, 0, none, none, some 0x89ABCDEF, some 0x01234567⟩] : List Vec).all
      (fun v => v.ok (onCpu piii 0 0)) = true ∧
    ([v4 0 0 1 0x756E6547 0x6C65746E 0x49656E69,
      v4 2 0 0x00000543 0 0 0x008001BF,
      v4 0x80000000 0 0x00000543 0 0 0x008001BF] : List Vec).all
      (fun v => v.ok (onCpu p5 0 0)) = true ∧
    execCpuid (onCpu i486e 0 0) = .fault .invalidOpcode := ⟨by decide, by decide, rfl⟩

/-- E5 and E7: at FFFFFFFEH the program counter wraps to 0; an odd one is no matter. -/
theorem test_step_pc :
    (nextOf (step (text { State.reset with pc := 0xFFFFFFFE }))).map State.pc = some 0 ∧
    (nextOf (step (text { State.reset with pc := 1 }))).map State.pc = some 3 := by decide

/-- E8, E9: EFLAGS as before, the update signature in the upper DWORD. -/
theorem test_side_effects :
    (nextOf (execCpuid { State.reset with eflags := 0x00200246 })).map State.eflags =
      some 0x00200246 ∧
    (nextOf (execCpuid State.reset)).map State.updateSignature = some 0x12 := by
  refine ⟨by decide, ?_⟩
  exact congrArg some (State.afterCpuid_updateSignature (s := State.reset) rfl)

/-! ## Reading the results: 95 section 4 and the printed tables -/

theorem test_version_W1 :
    versionFields 0x00000F34 = ⟨4, 3, 0xF, 0, 0, 0, 0, 0⟩ ∧ processorType 0x00000F34 = .originalOem ∧
    processorType 0x00001543 = .overDrive ∧ processorType 0x00002543 = .dualProcessor := by
  decide

theorem test_displayed_W4 :
    displayedModel 0x00010F41 = 0x14 ∧ displayedFamily 0x00010F41 = 0x0F := by decide

theorem test_decodeLeaf2_W5 :
    decodeLeaf2 ⟨0x665B5001, 0, 0, 0x007A7000⟩ = (1, [0x50, 0x5B, 0x66, 0x70, 0x7A]) ∧
    decodeLeaf2 ⟨0x03020101, 0, 0, 0x0C040882⟩ = (1, [1, 2, 3, 0x82, 8, 4, 0xC]) ∧
    decodeLeaf2 ⟨0x00005001, 0x80000000, 0xFFFFFFFF, 0⟩ = (1, [0x50]) := by decide

theorem test_descriptor_rows : descriptorTable.length = 51 ∧
    (descriptorTable.map Prod.fst).Nodup ∧ descriptorInfo 0x05 = none := by decide

theorem test_cacheParameters_W6 :
    cacheParameters ⟨0x00004121, 0x01C0003F, 0x0000001F, 0⟩ =
      ⟨.data, 1, true, false, 2, 1, 64, 1, 8, 32⟩ ∧
    (cacheParameters ⟨0xFC000000, 0xFFFFFFFF, 0, 0⟩).cores = 64 := by decide

theorem test_clflush_W7 : clflushLineBytes 0x01020809 = 64 ∧ clflushLineBytes 0x0000FF00 = 2040 := by
  decide

theorem test_frequency_W8 :
    maxFrequency Config.firstPentium4Brand.toList = some ⟨1500, 0, 6⟩ ∧
    (maxFrequency t1Brand.toList).map Frequency.hertz = some 3200000000 ∧
    maxFrequency [0x4D, 0x48, 0x20] = none ∧
    maxFrequency [0x20, 0x32, 0x47, 0x48, 0x7A, 0x20, 0x7A] = some ⟨2, 0, 9⟩ := by decide

theorem test_brandSupport_W9 :
    brandStringSupported State.reset = some true ∧ brandStringSupported (onCpu p5 0 0) = some false := by
  decide

theorem test_brandIndex_W10 :
    brandIndexInfo 0x0B 0x00000F13 = .brand "Intel(R) Xeon(TM) processor MP" ∧
    readBrandIndex (onCpu t1 0 0) = some (.brand "Intel(R) Pentium(R) 4 processor") := ⟨rfl, rfl⟩

/-- The order of preference of R100, and the vendor string as software reads it (R58). -/
theorem test_brandMethod_R100 :
    chooseBrandMethod State.reset = some .brandString ∧
    chooseBrandMethod (onCpu { p5 with brandIndex := 2 } 0 0) = some .brandIndex ∧
    chooseBrandMethod (onCpu p5 0 0) = some .familyModelStepping ∧
    readVendorString State.reset = some Config.genuineIntel.toList := by decide

theorem test_l2_W11 : l2Fields 0x04008040 = ⟨0x40, 0, 8, 0x0400⟩ ∧ l2SizeBytes 0x04008040 = 1048576 := by
  decide

theorem test_features_W12_W13 :
    FeatureEdx.htt.supported 0xBFEBFBFF = true ∧ FeatureEdx.psn.supported 0xBFEBFBFF = false ∧
    FeatureEdx.clfsh.supported 0xBFEBFBFF = true ∧ FeatureEdx.pbe.supported 0xBFEBFBFF = true ∧
    (FeatureEcx.all.filter fun f => f.supported 0x00000419) = [.sse3, .monitor, .dsCpl, .cnxtId] := by
  decide

theorem test_enumerateCaches_t1 :
    (enumerateCaches 5 0 (onCpu t1 0 0)).map CacheParameters.sizeBytes = [16384, 1048576] := by decide

theorem test_rows :
    t1.ofRow .pentium4HyperThreading = true ∧ Config.p4First.ofRow .pentium4 = true ∧
    piii.ofRow .pentiumIII = true ∧ p5.ofRow .laterIntel486OrPentium = true ∧
    i486e.ofRow .earlierIntel486 = true ∧
    ({ t1 with logicalCount := 1 } : Config).ofRow .pentium4HyperThreading = false ∧
    ({ p5 with vendor := Vector.replicate 12 0 } : Config).ofRow .laterIntel486OrPentium = false ∧
    ProcessorRow.pentium4HyperThreading.leavesPresent = [0, 1, 2, 3, 4, 5] := by decide

/-! ## Witnesses: for every statement with hypotheses, a state that meets them together -/

theorem witness_DecodeAndEncodeAgree :
    Instr.cpuid.wf = true ∧ decode [0x0F, 0xA2, 0x00] = .ok (.cpuid, [0x00]) := by decide

theorem witness_OtherFirstBytesAreRefused_first :
    TextAt { State.reset with mem := [(0, 0x66), (1, 0xA2)] } 0x66 0xA2 ∧
      ¬((0x66 : Byte) = 0x0F ∧ (0xA2 : Byte) = 0xA2) := by
  refine ⟨⟨?_, ?_, ?_⟩, ?_⟩ <;> decide

theorem witness_OtherFirstBytesAreRefused_second :
    TextAt { State.reset with mem := [(0, 0x0F), (1, 0xA3)] } 0x0F 0xA3 ∧
      ¬((0x0F : Byte) = 0x0F ∧ (0xA3 : Byte) = 0xA2) := by
  refine ⟨⟨?_, ?_, ?_⟩, ?_⟩ <;> decide

theorem witness_StepRunsTheDecodedInstruction :
    TextAt (text State.reset) 0x0F 0xA2 ∧ decode [0x0F, 0xA2] = .ok (.cpuid, []) ∧
      Instr.cpuid.wf = true := by
  refine ⟨⟨?_, ?_, ?_⟩, ?_, ?_⟩ <;> decide

theorem witness_FetchIsRefused_top :
    ({ State.reset with pc := 0xFFFFFFFF } : State).pc = 0xFFFFFFFF := by decide

theorem witness_FetchIsRefused_first :
    State.reset.pc ≠ 0xFFFFFFFF ∧ State.reset.mem.readByte State.reset.pc.toNat = none := by decide

theorem witness_FetchIsRefused_second :
    let s : State := { State.reset with pc := 0xFFFFFFFE, mem := [(0xFFFFFFFE, 0x0F)] }
    s.pc ≠ 0xFFFFFFFF ∧ s.mem.readByte s.pc.toNat = some 0x0F ∧
      s.mem.readByte (s.pc + 1).toNat = none := by decide

theorem witness_PlacedOpcodeWordRunsNext :
    ({ State.reset with pc := 0xFFFFFFFE } : State).pc ≠ 0xFFFFFFFF ∧
      (5 : Nat) ≠ 0xFFFFFFFE ∧ (5 : Nat) ≠ 0xFFFFFFFF := by decide

theorem witness_FetchAfterCpuidSeesEarlierStores :
    State.reset.mem.writeBytes (State.reset.pc + 2) [0x0F, 0xA2] = some [(2, 0x0F), (3, 0xA2)] ∧
    ∃ t, exec .cpuid { State.reset with mem := [(2, 0x0F), (3, 0xA2)] } = .next t :=
  ⟨by decide, _, rfl⟩

theorem witness_CompletesExactlyWhereImplemented :
    State.reset.cfg.cpuidImpl = true ∧ (onCpu i486e 0 0).cfg.cpuidImpl = false := by decide

theorem witness_OnlyFaultIsInvalidOpcodeWithoutCpuid :
    step (text (onCpu i486e 0 0)) = .fault .invalidOpcode := rfl

theorem witness_CpuidFrame :
    (onCpu p5 2 0).cfg.cpuidImpl = true ∧ (onCpu p5 2 0).cfg.ucodeImpl = false ∧
      ¬((onCpu p5 2 0).selectedLeaf = 2 ∧ 1 < (onCpu p5 2 0).cfg.leaf2Count) := by decide

theorem witness_CpuidReadsAndWritesNoFlag : (onCpu t1 0 0).cfg.cpuidImpl = true := by decide

theorem witness_IgnoredInputsDoNotMatter :
    (onCpu t1 5 0).cfg.cpuidImpl = true ∧ (onCpu t1 5 0).selectedLeaf ≠ 4 := by decide

theorem witness_CpuidLoadsTheUpdateSignature :
    State.reset.cfg.cpuidImpl = true ∧ State.reset.cfg.ucodeImpl = true ∧
      (onCpu p5 0 0).cfg.cpuidImpl = true ∧ (onCpu p5 0 0).cfg.ucodeImpl = false := by decide

theorem witness_IdentificationDataIsRepeatable :
    let s := onCpu t1 4 1
    let t := { onCpu t1 4 1 with eflags := 0x00200246 }
    t.cfg = s.cfg ∧ t.bootNt4 = s.bootNt4 ∧ s.cfg.leaf2More = [] ∧
      t.selectedLeaf = s.selectedLeaf ∧ (s.selectedLeaf = 4 → t.regs.ecx = s.regs.ecx) ∧
      (∃ s', exec .cpuid s = .next s') ∧ (∃ t', exec .cpuid t = .next t') ∧
      (s.leafRow s.selectedLeaf s.regs.ecx).word .ecx = .value 0x000007FF :=
  ⟨rfl, rfl, rfl, by decide, fun _ => rfl, ⟨_, rfl⟩, ⟨_, rfl⟩, by decide⟩

theorem witness_InputSelectsItself_basic :
    (5 : Word).toNat ≤ (onCpu t1 0 0).effMaxBasic.toNat := by decide

theorem witness_InputSelectsItself_extended :
    (onCpu t1 0 0).cfg.extImpl = true ∧ 0x80000000 ≤ (0x80000008 : Word).toNat ∧
      (0x80000008 : Word).toNat ≤ (onCpu t1 0 0).cfg.maxExt.toNat := by decide

theorem witness_OutOfRange_basic : OutOfRange (onCpu t1 0 0) 6 :=
  ⟨by decide, by decide⟩

theorem witness_OutOfRange_extended : OutOfRange (onCpu t1 0 0) 0x80000009 :=
  ⟨by decide, by decide⟩

theorem witness_BootNt4HidesBasicLeavesAboveThree :
    let s := bootNt4Set (onCpu t1 0 0)
    s.cfg.cpuidImpl = true ∧ s.cfg.bootNt4Impl = true ∧ s.bootNt4 = true ∧
      (3 : Word).toNat ≤ min s.cfg.maxBasic.toNat 3 ∧ min s.cfg.maxBasic.toNat 3 < (4 : Word).toNat ∧
      (0x7FFFFFFF : Word).toNat ≤ 0x7FFFFFFF ∧ s.cfg.extImpl = true ∧
      0x80000000 ≤ (0x80000008 : Word).toNat ∧
      (0x80000008 : Word).toNat ≤ s.cfg.maxExt.toNat := by decide

/-- The bit set where MAX_BASIC is 2: input 3 is already above the maximum. -/
theorem witness_BootNt4HidesBasicLeavesAboveThree_below :
    let s := bootNt4Set (onCpu { Config.p4First with bootNt4Impl := true } 0 0)
    s.cfg.cpuidImpl = true ∧ s.cfg.bootNt4Impl = true ∧ s.bootNt4 = true ∧
      (2 : Word).toNat ≤ min s.cfg.maxBasic.toNat 3 ∧
      min s.cfg.maxBasic.toNat 3 < (3 : Word).toNat := by decide

/-- The bit set on a processor without it, and the bit clear on a processor with it. -/
theorem witness_BootNt4HidesBasicLeavesAboveThree_off :
    let s := bootNt4Set (onCpu { t1 with bootNt4Impl := false } 0 0)
    s.cfg.cpuidImpl = true ∧ s.cfg.bootNt4Impl = false ∧ s.bootNt4 = true ∧
      (5 : Word).toNat ≤ s.cfg.maxBasic.toNat ∧ (onCpu t1 0 0).bootNt4 = false := by decide

theorem witness_BasicLeavesOfEachProcessorRow :
    t1.maximaOfRow .pentium4HyperThreading = true ∧
      ProcessorRow.pentium4HyperThreading.maxBasic = some 5 ∧
      (onCpu t1 0 0).bootNt4 = false ∧ (7 : Word).toNat < 0x80000000 ∧
      (5 : Word).toNat ∈ ProcessorRow.pentium4HyperThreading.leavesPresent ∧
      (6 : Word).toNat ∉ ProcessorRow.pentium4HyperThreading.leavesPresent := by decide

theorem witness_NoExtendedLeavesMeansHighestBasicLeaf :
    (onCpu piii 0 0).cfg.maximaOfRow .pentiumIII = true ∧ ProcessorRow.pentiumIII.maxExt = none ∧
      (onCpu piii 0 0).cfg.cpuidImpl = true ∧ 0x80000000 ≤ (0x80000000 : Word).toNat := by decide

theorem witness_DocumentedRowsIdentifyThemselves :
    let s := onCpu t1 0 0
    s.cfg.ofRow .pentium4HyperThreading = true ∧ s.cfg.cpuidImpl = true ∧ s.bootNt4 = false ∧
      ProcessorRow.pentium4HyperThreading.maxExt = some 0x80000008 := by decide

theorem witness_DocumentedRowsIdentifyThemselves_psn :
    let s := onCpu piii 0 0
    s.cfg.ofRow .pentiumIII = true ∧ s.cfg.cpuidImpl = true ∧ s.bootNt4 = false ∧
      s.cfg.wf = true ∧ FeatureEdx.psn.supported s.cfg.featEdx = true := by decide

theorem witness_LeafZeroReturnsMaximumAndVendor :
    State.reset.cfg.cpuidImpl = true ∧ State.reset.regs.eax = 0 ∧
      State.reset.cfg.vendor = Config.genuineIntel ∧ State.reset.bootNt4 = false := by decide

theorem witness_OnlyInputZeroSelectsLeafZero :
    let s := bootNt4Set (onCpu t1 0 0)
    s.cfg.cpuidImpl = true ∧ s.cfg.wf = true ∧ s.selectLeaf 0 = 0 ∧ s.selectLeaf 1 = 1 := by decide

theorem witness_LeafOneReturnsVersionAndFeatures :
    (onCpu p5 2 0).cfg.cpuidImpl = true ∧ (onCpu p5 2 0).selectedLeaf = 1 := by decide

theorem witness_ClflushLineSizeIsEightTimesTheField :
    let s := onCpu { t1 with clflushLine := 0xFF } 1 0
    s.cfg.cpuidImpl = true ∧ s.selectedLeaf = 1 := by decide

theorem witness_LeafTwoReturnsItsOnlyImage :
    (onCpu Config.p4First 0xFFFFFFFF 0).cfg.cpuidImpl = true ∧
      (onCpu Config.p4First 0xFFFFFFFF 0).selectedLeaf = 2 ∧ Config.p4First.leaf2More = [] := by decide

theorem witness_LeafTwoReturnsOneOfItsImages :
    (onCpu twoImages 2 0).cfg.cpuidImpl = true ∧ (onCpu twoImages 2 0).selectedLeaf = 2 ∧
      twoImages.wf = true ∧ (onCpu twoImages 2 0).l2pos < twoImages.leaf2Count := by decide

theorem witness_LeafThreeReturnsTheSerialNumber :
    (onCpu piii 4 0).cfg.cpuidImpl = true ∧ (onCpu piii 4 0).selectedLeaf = 3 ∧
      (onCpu piii 4 0).cfg.psnImpl = true := by decide

theorem witness_LeafFourReturnsTheIndexedCache :
    (onCpu t1 4 1).cfg.cpuidImpl = true ∧ (onCpu t1 4 1).selectedLeaf = 4 ∧ t1.wf = true := by decide

theorem witness_LeafFiveReturnsMonitorLineSizes :
    (onCpu t1 6 0).cfg.cpuidImpl = true ∧ (onCpu t1 6 0).selectedLeaf = 5 := by decide

theorem witness_ExtendedMaximumAndSignatureLeaves :
    (onCpu t1 0x80000000 0).cfg.cpuidImpl = true ∧ (onCpu t1 0x80000000 0).selectedLeaf = 0x80000000 ∧
      (onCpu t1 0x80000001 0).selectedLeaf = 0x80000001 := by decide

theorem witness_BrandStringLeaves :
    (onCpu t1 0x80000004 0).cfg.cpuidImpl = true ∧ 2 < 3 ∧
      (onCpu t1 0x80000004 0).selectedLeaf.toNat = 0x80000002 + 2 := by decide

theorem witness_ReservedExtendedLeavesReturnZero :
    (onCpu t1 0x80000005 0).cfg.cpuidImpl = true ∧ (onCpu t1 0x80000005 0).selectedLeaf = 0x80000005 ∧
      (onCpu t1 0x80000007 0).selectedLeaf = 0x80000007 ∧
      (onCpu t1 0x80000008 0).selectedLeaf = 0x80000008 := by decide

theorem witness_L2InformationLeaf :
    (onCpu t1 0x80000006 0).cfg.cpuidImpl = true ∧ (onCpu t1 0x80000006 0).selectedLeaf = 0x80000006 := by
  decide

theorem witness_LeafWithoutContent_basic :
    (onCpu beyond 8 0).cfg.cpuidImpl = true ∧ 5 < (onCpu beyond 8 0).selectedLeaf.toNat ∧
      (onCpu beyond 8 0).selectedLeaf.toNat < 0x80000000 := by decide

/-- A processor whose MAX_EXT is 80000009H: the other range of leaves without content. -/
theorem witness_LeafWithoutContent_extended :
    let s := onCpu { t1 with maxExt := 0x80000009 } 0x80000009 0
    s.cfg.cpuidImpl = true ∧ 5 < s.selectedLeaf.toNat ∧ 0x80000008 < s.selectedLeaf.toNat := by decide

theorem witness_StepKeepsTheInvariant :
    Inv (text (onCpu twoImages 2 0)) ∧ ∃ t, step (text (onCpu twoImages 2 0)) = .next t :=
  ⟨⟨by decide, by decide, by decide⟩, _, rfl⟩

theorem witness_ResetMeetsTheInvariant :
    (bootNt4Set (onCpu twoImages 2 0)).mem.wf = true ∧ twoImages.wf = true := by decide

theorem witness_ResetKeepsIdentificationData :
    State.launch.cfg.leaf2More = [] ∧ (21 : Nat) ≠ 22 ∧ (23 : Nat) ≠ 22 := by decide

theorem witness_RunsKeepIdentificationAndAdvance :
    (∃ t, runSteps 1 (text State.reset) = .next t) ∧ 0 < 1 ∧
      (text State.reset).cfg.ucodeImpl = true ∧ (text State.reset).cfg.leaf2More = [] :=
  ⟨⟨_, rfl⟩, by decide, by decide, rfl⟩

theorem witness_RunsKeepIdentificationAndAdvance_noFacility :
    (∃ t, runSteps 1 (text (onCpu p5 0 0)) = .next t) ∧
      (text (onCpu p5 0 0)).cfg.ucodeImpl = false :=
  ⟨⟨_, rfl⟩, by decide⟩

/-- Two images, and a run whose one step selects leaf 1. -/
theorem witness_RunsKeepIdentificationAndAdvance_twoImages :
    (∃ t, runSteps 1 (text (onCpu twoImages 1 0)) = .next t) ∧
      ∀ (k : Nat) (u : State), k < 1 → runSteps k (text (onCpu twoImages 1 0)) = .next u →
        ¬(u.selectedLeaf = 2 ∧ 1 < u.cfg.leaf2Count) := by
  refine ⟨⟨_, rfl⟩, fun k u hk h => ?_⟩
  obtain rfl : k = 0 := by omega
  cases h
  decide

theorem witness_RunsRevealOnlyTheInputs :
    let s := text State.reset
    let t : State := { s with regs := ⟨0, 1, 0, 2⟩, eflags := 0x00200246, ucodeSig := 7 }
    SameInputs s t ∧ t.pc = s.pc ∧ t.mem = s.mem ∧ ∃ s', runSteps 1 s = .next s' :=
  ⟨⟨rfl, rfl, rfl, rfl, rfl, rfl⟩, rfl, rfl, _, rfl⟩

theorem witness_NoRunFaultsWhereImplemented : (text State.reset).cfg.cpuidImpl = true := by decide

theorem witness_StoredDwordIsLittleEndian :
    Memory.writeDword [] 0xFFFFFFFC 0x01020304 =
      some [(0xFFFFFFFC, 4), (0xFFFFFFFD, 3), (0xFFFFFFFE, 2), (0xFFFFFFFF, 1)] ∧
      Memory.wf [] = true ∧ 0xFFFFFFFB < (0xFFFFFFFC : Word).toNat := by decide

theorem witness_StoredLeafZeroSpellsTheVendor :
    State.reset.regs.eax = 0 ∧
    (∃ t m1 m2 m3, exec .cpuid State.reset = .next t ∧
      t.mem.writeDword 0x100 t.regs.ebx = some m1 ∧
      m1.writeDword (0x100 + 4) t.regs.edx = some m2 ∧
      m2.writeDword (0x100 + 8) t.regs.ecx = some m3) ∧ (0x100 : Word).toNat + 12 ≤ 2 ^ 32 :=
  ⟨rfl, ⟨_, _, _, _, rfl, rfl, rfl, rfl⟩, by decide⟩

theorem witness_BrandStringReadOut :
    State.reset.cfg.cpuidImpl = true ∧ State.reset.cfg.extImpl = true ∧
      0x80000004 ≤ State.reset.cfg.maxExt.toNat := by decide

theorem witness_BrandStringSupportTest_basic1 :
    (onCpu p5 0 0).cfg.cpuidImpl = true ∧ p5.wf = true ∧ p5.extImpl = false ∧
      (onCpu p5 0 0).effMaxBasic = 1 ∧ p5.version.toNat < 2 ^ 31 := by decide

theorem witness_BrandStringSupportTest_basic2 :
    let c : Config := { p5 with maxBasic := 2 }
    c.cpuidImpl = true ∧ c.wf = true ∧ c.extImpl = false ∧ (onCpu c 0 0).effMaxBasic = 2 ∧
      c.leaf2More = [] ∧ descriptorsValid c.leaf2First.eax = true := by decide

/-- With extended leaves that reach the brand string, and with the maximum just below it. -/
theorem witness_BrandStringSupportTest_extended :
    let c : Config := { t1 with maxExt := 0x80000003 }
    t1.cpuidImpl = true ∧ t1.wf = true ∧ t1.extImpl = true ∧ c.cpuidImpl = true ∧ c.wf = true ∧
      c.extImpl = true := by decide

theorem witness_VendorAndBrandIndexReadOut :
    (onCpu piii 0 0).cfg.cpuidImpl = true ∧ (onCpu piii 0 0).cfg.wf = true := by decide

theorem witness_CheckedRequestIsAnswered :
    piii.wf = true ∧ (3 : Word).toNat < 0x80000000 ∧ requestChecked (onCpu piii 0 0) 3 = true ∧
      t1.wf = true ∧ t1.extImpl = true ∧ requestChecked (onCpu t1 0 0) 0x80000008 = true := by decide

theorem witness_CacheEnumerationIsTheConfigurations :
    let s := onCpu t1 0 0
    s.cfg.cpuidImpl = true ∧ 4 ≤ s.effMaxBasic.toNat ∧ 2 < 3 ∧
      (∀ j < 2, cacheType (s.cfg.leaf4At (0 + BitVec.ofNat 32 j)).eax ≠ .noMoreCaches) ∧
      cacheType (s.cfg.leaf4At (0 + BitVec.ofNat 32 2)).eax = .noMoreCaches := by decide

theorem witness_LeafTwoDecodingSkipsReservedRegisters :
    (⟨0x80000001, 0xFFFFFFFF, 0x80000000, 0x80000000⟩ : Quad).eax.getLsbD 31 = true ∧
      (0xFFFFFFFF : Word).getLsbD 31 = true ∧ (0x80000000 : Word).getLsbD 31 = true ∧
      (0x7F : Byte) ∈ registerDescriptors 0x7F000000 [3] ∧ (0x7F : Byte) ≠ 0 := by decide

theorem witness_FeatureBitsAreThoseOfTheTables :
    FeatureEcx.ofBit 10 = some .cnxtId ∧ FeatureEdx.ofBit 31 = some .pbe := by decide

/-- The text " 3.20GHz zMHTz": letters "z" after its last unit, and no unit among them. -/
theorem witness_MaximumFrequency_number :
    ((0x47 : Byte), 9) ∈ [((0x4D : Byte), 6), (0x47, 9), (0x54, 12)] ∧ ([0x33] : List Byte) ≠ [] ∧
      ([0x33] : List Byte) ++ [0x32, 0x30] ≠ [] ∧
      (∀ b ∈ ([0x33] : List Byte) ++ [0x32, 0x30], isDigit b = true) ∧ (0 : Byte) ∉ [0x55, 0x20] ∧
      ¬UnitIn (brandText [0x20, 0x7A, 0x4D, 0x48, 0x54, 0x7A, 0x00, 0x4D, 0x48, 0x7A]) := by decide

/-- A text with a letter "z" and no unit before its NUL: "MHxz". -/
theorem witness_MaximumFrequency_error :
    ¬UnitIn (brandText [0x4D, 0x48, 0x78, 0x7A, 0x00, 0x4D, 0x48, 0x7A]) := by decide

theorem witness_MaximumFrequency_exact :
    (⟨320, 2, 9⟩ : Frequency).fractionDigits ≤ (⟨320, 2, 9⟩ : Frequency).exponent := by decide

theorem witness_BrandIndexTableEntries :
    (0x00000F00 : Word) ≠ 0x000006B1 ∧ (0x00000F00 : Word) ≠ 0x00000F13 ∧ (0x02 : Byte) ≠ 0x03 ∧
      (0x0C : Byte) ≠ 0x0B ∧ (0x0C : Byte) ≠ 0x0E ∧
      brandIndexInfo 0x18 0x00000F00 = .reserved := by decide

end Sys2Proof.Tests
end

section
/-! Proofs about the CPUID instruction itself (spec/40_cpuid_instruction.md): where it completes, and
the update signature it loads. -/

namespace Sys2Proof.Machine

/-! ## The update signature -/

/-- The update signature field is the upper DWORD of IA32_BIOS_SIGN_ID, as numbers (R12). -/
theorem State.toNat_updateSignature (s : State) :
    s.updateSignature.toNat = s.biosSignId.toNat / 2 ^ 32 := by
  have hlt : s.biosSignId.toNat / 2 ^ 32 < 2 ^ 32 := by omega
  rw [State.updateSignature, BitVec.extractLsb'_toNat, Nat.shiftRight_eq_div_pow,
    Nat.mod_eq_of_lt hlt]

/-- Where CPUID is implemented, software that executes it with a given input gets the state after
CPUID with that input in EAX. -/
theorem State.cpuidWith_eq_afterCpuid {s : State} (h : s.cfg.cpuidImpl = true) (input : Word) :
    s.cpuidWith input = some (s.writeReg .eax input).afterCpuid := by
  unfold State.cpuidWith
  rw [execCpuid_of_impl (s := s.writeReg .eax input) h]

/-- The read-out of R124 gives the update signature, whatever the input: loading EAX changes neither
the signature nor the facility, and every execution loads the signature (R54). -/
theorem readUpdateSignature_eq_ucodeSig {s : State} (h : s.cfg.cpuidImpl = true)
    (hu : s.cfg.ucodeImpl = true) (input : Word) :
    readUpdateSignature s input = some s.ucodeSig := by
  have hu' : (s.writeReg .eax input).cfg.ucodeImpl = true := by rwa [State.writeReg_cfg]
  rw [readUpdateSignature, State.cpuidWith_eq_afterCpuid h, Option.map_some,
    State.afterCpuid_updateSignature hu', State.writeReg_ucodeSig]

/-- Settles O14: the next state is `afterCpuid`, whose IA32_BIOS_SIGN_ID is `loadedSignature`; R124's
read-out is the same execution with another EAX. -/
theorem cpuidLoadsTheUpdateSignature : Obligations.CpuidLoadsTheUpdateSignature := by
  unfold Obligations.CpuidLoadsTheUpdateSignature
  intro s h
  refine ⟨⟨s.afterCpuid, execCpuid_of_impl h, fun hu => ?loaded, fun hu => ?untouched⟩,
    readUpdateSignature_eq_ucodeSig h⟩
  case loaded => rw [← State.toNat_updateSignature, State.afterCpuid_updateSignature hu]
  case untouched => rw [State.afterCpuid_biosSignId, State.loadedSignature_of_not hu]

/-! ## Completion -/

/-- Settles O9: the only test CPUID makes before it completes is whether the processor implements
it. -/
theorem completesExactlyWhereImplemented : Obligations.CompletesExactlyWhereImplemented := by
  unfold Obligations.CompletesExactlyWhereImplemented
  exact fun s => ⟨fun h => ⟨s.afterCpuid, execCpuid_of_impl h⟩, execCpuid_of_not_impl⟩

end Sys2Proof.Machine
end

section
/-! Proofs about the basic leaves (spec/41_basic_leaves.md): the registers that leaves 0, 1, 3 and 5
return, and the feature flags of leaf 1. -/

namespace Sys2Proof.Machine

/-! ## Fields of words -/

/-- Leaf 1 EBX put together from its four bytes reads back as them (R63). -/
theorem leaf1Ebx_dwordOfBytes (b0 b1 b2 b3 : Byte) :
    leaf1Ebx (dwordOfBytes b0 b1 b2 b3) = ⟨b0, b1, b2, b3⟩ := by
  have hbytes := dwordBytes_dwordOfBytes b0 b1 b2 b3
  simp only [dwordBytes, List.cons.injEq, and_true] at hbytes
  obtain ⟨h0, h1, h2, h3⟩ := hbytes
  rw [leaf1Ebx, h0, h1, h2, h3]

/-- The three register values that the source prints for its vendor string (R58). -/
theorem pack4_genuineIntel :
    pack4 Config.genuineIntel 0 (by decide) = 0x756E6547 ∧
      pack4 Config.genuineIntel 4 (by decide) = 0x49656E69 ∧
      pack4 Config.genuineIntel 8 (by decide) = 0x6C65746E := by
  decide

/-- The field has 8 bits, so the line size is at most 8 * 255 bytes (R64), whatever EBX holds. -/
theorem clflushLineBytes_le (ebx : Word) : clflushLineBytes ebx ≤ 2040 := by
  have hfield := (leaf1Ebx ebx).clflushLine.isLt
  unfold clflushLineBytes
  omega

/-- The flag found for a bit of leaf 1 ECX is one that stands at that bit (R66). -/
theorem FeatureEcx.bit_of_ofBit {f : FeatureEcx} {n : Nat} (h : FeatureEcx.ofBit n = some f) :
    f.bit = n :=
  beq_iff_eq.mp (List.find?_some (p := fun f => FeatureEcx.bit f == n) h)

/-- The flag found for a bit of leaf 1 EDX is one that stands at that bit (R67). -/
theorem FeatureEdx.bit_of_ofBit {f : FeatureEdx} {n : Nat} (h : FeatureEdx.ofBit n = some f) :
    f.bit = n :=
  beq_iff_eq.mp (List.find?_some (p := fun f => FeatureEdx.bit f == n) h)

/-! ## The registers of each leaf -/

/-- CPUID's result is the row of the leaf it selects (R46, R49). -/
theorem State.cpuidResult_of_selectedLeaf {s : State} {leaf : Word} (h : s.selectedLeaf = leaf) :
    s.cpuidResult = (s.leafRow leaf s.regs.ecx).resolve s.draws := by
  rw [State.cpuidResult, h]

/-- Input 0 returns leaf 0 (R58). -/
theorem State.cpuidResult_of_eax_zero {s : State} (h : s.regs.eax = 0) :
    s.cpuidResult = ⟨s.effMaxBasic, pack4 s.cfg.vendor 0 (by decide),
      pack4 s.cfg.vendor 8 (by decide), pack4 s.cfg.vendor 4 (by decide)⟩ := by
  have hsel : s.selectedLeaf = 0 := by rw [State.selectedLeaf, h, State.selectLeaf_zero]
  rw [State.cpuidResult_of_selectedLeaf hsel, State.leafRow_basic0]
  rfl

/-- Leaf 1 (R59, R63): EBX holds its four bytes, the brand index lowest. -/
theorem State.cpuidResult_of_leaf_one {s : State} (h : s.selectedLeaf = 1) :
    s.cpuidResult = ⟨s.cfg.version,
      dwordOfBytes s.cfg.brandIndex s.cfg.clflushLine s.cfg.logicalCount s.cfg.apicId,
      s.cfg.featEcx, s.cfg.featEdx⟩ := by
  rw [State.cpuidResult_of_selectedLeaf h, State.leafRow_basic1]
  rfl

/-- Leaf 3 where the serial number is available (R69); EAX and EBX are free values. -/
theorem State.cpuidResult_of_leaf_three {s : State} (h : s.selectedLeaf = 3)
    (hp : s.cfg.psnImpl = true) :
    s.cpuidResult.ecx = s.cfg.psnLow ∧ s.cpuidResult.edx = s.cfg.psnHigh := by
  rw [State.cpuidResult_of_selectedLeaf h, State.leafRow_basic3]
  simp [LeafRow.resolve, leaf3Row, hp]

/-- Leaf 5 (R74). -/
theorem State.cpuidResult_of_leaf_five {s : State} (h : s.selectedLeaf = 5) :
    s.cpuidResult = ⟨s.cfg.monMin.setWidth 32, s.cfg.monMax.setWidth 32, 0, 0⟩ := by
  rw [State.cpuidResult_of_selectedLeaf h, State.leafRow_basic5]
  rfl

/-! ## The statements -/

/-- Settles O21: the three registers are pieces of the vendor string, four characters each; of the
twelve characters, the last piece is all that follows the first eight. -/
theorem leafZeroReturnsMaximumAndVendor : Obligations.LeafZeroReturnsMaximumAndVendor := by
  unfold Obligations.LeafZeroReturnsMaximumAndVendor
  intro s h h0
  have hlast : (s.cfg.vendor.toList.drop 8).take 4 = s.cfg.vendor.toList.drop 8 :=
    List.take_of_length_le (by simp)
  refine ⟨s.afterCpuid, execCpuid_of_impl h, ?_⟩
  rw [State.afterCpuid_regs, State.cpuidResult_of_eax_zero h0]
  refine ⟨rfl, State.effMaxBasic_of_clear, dwordBytes_pack4_take _ 0 _,
    dwordBytes_pack4_take _ 4 _, (dwordBytes_pack4_take _ 8 _).trans hlast, fun hv => ?genuineIntel⟩
  case genuineIntel =>
    rw [hv]
    exact pack4_genuineIntel

/-- Settles O23: EBX is the four bytes joined, so its bytes are those four. -/
theorem leafOneReturnsVersionAndFeatures : Obligations.LeafOneReturnsVersionAndFeatures := by
  unfold Obligations.LeafOneReturnsVersionAndFeatures
  intro s h h1
  refine ⟨s.afterCpuid, execCpuid_of_impl h, ?_⟩
  rw [State.afterCpuid_regs, State.cpuidResult_of_leaf_one h1]
  exact ⟨rfl, dwordBytes_dwordOfBytes _ _ _ _, rfl, rfl⟩

/-- Settles O24: the second byte of leaf 1's EBX is the configuration's field. -/
theorem clflushLineSizeIsEightTimesTheField : Obligations.ClflushLineSizeIsEightTimesTheField := by
  unfold Obligations.ClflushLineSizeIsEightTimesTheField
  intro s h h1
  refine ⟨s.afterCpuid, execCpuid_of_impl h, ?_, clflushLineBytes_le _⟩
  rw [State.afterCpuid_regs, State.cpuidResult_of_leaf_one h1, clflushLineBytes,
    leaf1Ebx_dwordOfBytes]

/-- Settles O27: the program counter moves by the two bytes of the opcode whatever leaf is selected, and
the serial number is read from the row of leaf 3. -/
theorem leafThreeReturnsTheSerialNumber : Obligations.LeafThreeReturnsTheSerialNumber := by
  unfold Obligations.LeafThreeReturnsTheSerialNumber
  exact fun s h h3 => ⟨s.afterCpuid, execCpuid_of_impl h, s.afterCpuid_pc,
    State.cpuidResult_of_leaf_three h3⟩

/-- Settles O29: widening 16 bits to 32 keeps the number. -/
theorem leafFiveReturnsMonitorLineSizes : Obligations.LeafFiveReturnsMonitorLineSizes := by
  unfold Obligations.LeafFiveReturnsMonitorLineSizes
  intro s h h5
  refine ⟨s.afterCpuid, execCpuid_of_impl h, ?_⟩
  rw [State.afterCpuid_regs, State.cpuidResult_of_leaf_five h5]
  exact ⟨BitVec.toNat_setWidth_of_le (by decide), BitVec.toNat_setWidth_of_le (by decide), rfl, rfl⟩

/-- Settles O52: the two tables are evaluated bit by bit; a flag found for a bit stands at that bit,
and `supported` tests the bit at which the flag stands. -/
theorem featureBitsAreThoseOfTheTables : Obligations.FeatureBitsAreThoseOfTheTables := by
  unfold Obligations.FeatureBitsAreThoseOfTheTables
  refine ⟨by decide, by decide, fun f n w h => ?ecx, fun f n w h => ?edx⟩
  case ecx => rw [FeatureEcx.supported, FeatureEcx.bit_of_ofBit h]
  case edx => rw [FeatureEdx.supported, FeatureEdx.bit_of_ofBit h]

end Sys2Proof.Machine
end

section
/-! Proofs about the extended leaves (spec/43_extended_leaves.md): the registers that leaves 80000000H
to 80000008H return, and the fields of the L2 information. -/

namespace Sys2Proof.Machine

/-! ## Fields of the L2 information -/

/-- The line size is bits 7:0 of leaf 80000006H ECX (R90). -/
theorem l2Fields_toNat_lineSize (ecx : Word) :
    (l2Fields ecx).lineSize.toNat = ecx.toNat % 2 ^ 8 := by
  rw [l2Fields, BitVec.extractLsb'_toNat, Nat.shiftRight_zero]

/-- The associativity code is bits 15:12 of leaf 80000006H ECX (R90). -/
theorem l2Fields_toNat_associativity (ecx : Word) :
    (l2Fields ecx).associativity.toNat = ecx.toNat / 2 ^ 12 % 2 ^ 4 := by
  rw [l2Fields, BitVec.extractLsb'_toNat, Nat.shiftRight_eq_div_pow]

/-- The size is bits 31:16 of leaf 80000006H ECX in units of 1024 bytes (R90); no bit stands above
them, so nothing is cut off. -/
theorem l2SizeBytes_eq (ecx : Word) : l2SizeBytes ecx = 1024 * (ecx.toNat / 2 ^ 16) := by
  have hlt : ecx.toNat / 2 ^ 16 < 2 ^ 16 := by omega
  rw [l2SizeBytes, l2Fields, BitVec.extractLsb'_toNat, Nat.shiftRight_eq_div_pow,
    Nat.mod_eq_of_lt hlt]

/-! ## The registers of each leaf -/

/-- Leaf 80000000H (R84): EAX is MAX_EXT, and the other registers are free values. -/
theorem State.cpuidResult_eax_of_leaf_ext0 {s : State} (h : s.selectedLeaf = 0x80000000) :
    s.cpuidResult.eax = s.cfg.maxExt := by
  rw [State.cpuidResult_of_selectedLeaf h, State.leafRow_ext0]
  rfl

/-- Leaf 80000001H (R85): EAX is the extended signature, and the other registers are free values. -/
theorem State.cpuidResult_eax_of_leaf_ext1 {s : State} (h : s.selectedLeaf = 0x80000001) :
    s.cpuidResult.eax = s.cfg.extSig := by
  rw [State.cpuidResult_of_selectedLeaf h, State.leafRow_ext1]
  rfl

/-- The i-th of the leaves 80000002H to 80000004H is the row of the brand string from character 16i on
(R86). -/
theorem State.cpuidResult_of_leaf_brand {s : State} {i : Nat} (hi : i < 3)
    (h : s.selectedLeaf.toNat = 0x80000002 + i) :
    s.cpuidResult = (brandRow s.cfg (16 * i) (by omega)).resolve s.draws := by
  have hleaf : s.selectedLeaf = BitVec.ofNat 32 (0x80000002 + i) :=
    BitVec.eq_of_toNat_eq (h.trans (Nat.mod_eq_of_lt (by omega)).symm)
  rw [State.cpuidResult_of_selectedLeaf hleaf]
  match i, hi with
  | 0, _ => exact congrArg (·.resolve s.draws) (s.leafRow_ext2 _)
  | 1, _ => exact congrArg (·.resolve s.draws) (s.leafRow_ext3 _)
  | 2, _ => exact congrArg (·.resolve s.draws) (s.leafRow_ext4 _)

/-- Leaf 80000006H (R90): the L2 information in ECX. -/
theorem State.cpuidResult_of_leaf_ext6 {s : State} (h : s.selectedLeaf = 0x80000006) :
    s.cpuidResult = ⟨0, 0, s.cfg.l2Info, 0⟩ := by
  rw [State.cpuidResult_of_selectedLeaf h, State.leafRow_ext6]
  rfl

/-- A leaf whose row is "Reserved = 0" returns four zeros (R89, R91, R92). -/
theorem State.cpuidResult_of_zeroRow {s : State}
    (h : s.leafRow s.selectedLeaf s.regs.ecx = zeroRow) : s.cpuidResult = Quad.zero := by
  rw [State.cpuidResult, h, zeroRow, LeafRow.resolve_ofQuad]

/-! ## The statements -/

/-- Settles O31: each leaf is the brand string's row from its sixteen characters on, and the bytes of
such a row are those characters. -/
theorem brandStringLeaves : Obligations.BrandStringLeaves := by
  unfold Obligations.BrandStringLeaves
  intro s i hi h hleaf
  refine ⟨s.afterCpuid, execCpuid_of_impl h, ?_⟩
  rw [State.afterCpuid_regs, State.cpuidResult_of_leaf_brand hi hleaf, quadBytes_brandRow]

/-- Settles O33: ECX is the L2 information, and its fields are read from any word alike. -/
theorem l2InformationLeaf : Obligations.L2InformationLeaf := by
  unfold Obligations.L2InformationLeaf
  intro s h h6
  refine ⟨s.afterCpuid, execCpuid_of_impl h, ?_⟩
  rw [State.afterCpuid_regs, State.cpuidResult_of_leaf_ext6 h6]
  exact ⟨rfl, l2Fields_toNat_lineSize _, l2Fields_toNat_associativity _, l2SizeBytes_eq _⟩

/-- Settles O30: EAX is the one register to which the two rows give a value. -/
theorem extendedMaximumAndSignatureLeaves : Obligations.ExtendedMaximumAndSignatureLeaves := by
  unfold Obligations.ExtendedMaximumAndSignatureLeaves
  exact fun s h =>
    ⟨fun h0 => ⟨s.afterCpuid, execCpuid_of_impl h, State.cpuidResult_eax_of_leaf_ext0 h0⟩,
      fun h1 => ⟨s.afterCpuid, execCpuid_of_impl h, State.cpuidResult_eax_of_leaf_ext1 h1⟩⟩

/-- Settles O32: the three leaves share one row, and it is zero in every register. -/
theorem reservedExtendedLeavesReturnZero : Obligations.ReservedExtendedLeavesReturnZero := by
  unfold Obligations.ReservedExtendedLeavesReturnZero
  intro s h hleaf
  have hrow : s.leafRow s.selectedLeaf s.regs.ecx = zeroRow := by
    obtain h5 | h7 | h8 := hleaf
    · rw [h5, State.leafRow_ext5]
    · rw [h7, State.leafRow_ext7]
    · rw [h8, State.leafRow_ext8]
  refine ⟨s.afterCpuid, execCpuid_of_impl h, ?_⟩
  rw [State.afterCpuid_regs, State.cpuidResult_of_zeroRow hrow]
  rfl

end Sys2Proof.Machine
end

section
/-! Proofs about software's brand procedures (spec/44_branding_software.md): the brand index table. -/

namespace Sys2Proof.Machine

/-! ## The rows that ask about the signature -/

/-- Row 03H (R99). -/
theorem brandIndexInfo_index03 (signature : Word) :
    brandIndexInfo 0x03 signature =
      if signature = 0x000006B1 then .brand "Intel(R) Celeron(R) processor"
      else .brand "Intel(R) Pentium(R) III Xeon(TM) processor" := rfl

/-- Row 0BH (R99). -/
theorem brandIndexInfo_index0B (signature : Word) :
    brandIndexInfo 0x0B signature =
      if signature = 0x00000F13 then .brand "Intel(R) Xeon(TM) processor MP"
      else .brand "Intel(R) Xeon(TM) processor" := rfl

/-- Row 0EH (R99). -/
theorem brandIndexInfo_index0E (signature : Word) :
    brandIndexInfo 0x0E signature =
      if signature = 0x00000F13 then .brand "Intel(R) Xeon(TM) processor"
      else .brand "Mobile Intel(R) Pentium(R) 4 processor-M" := rfl

/-- Away from 03H, 0BH and 0EH the entry does not depend on the signature. -/
theorem brandIndexInfo_of_other_index {index : Byte} (h3 : index ≠ 0x03) (hB : index ≠ 0x0B)
    (hE : index ≠ 0x0E) (σ τ : Word) : brandIndexInfo index σ = brandIndexInfo index τ := by
  have n3 : index.toNat ≠ 0x03 := fun h => h3 (BitVec.eq_of_toNat_eq h)
  have nB : index.toNat ≠ 0x0B := fun h => hB (BitVec.eq_of_toNat_eq h)
  have nE : index.toNat ≠ 0x0E := fun h => hE (BitVec.eq_of_toNat_eq h)
  unfold brandIndexInfo
  split
  case h_4 h => exact absurd h n3
  case h_12 h => exact absurd h nB
  case h_15 h => exact absurd h nE
  all_goals rfl

/-- The table asks one question of the signature at 03H and another at 0BH and 0EH: two signatures
that give the same answer to the question asked at an index get the same entry. -/
theorem brandIndexInfo_congr {index : Byte} {σ τ : Word}
    (h3 : index = 0x03 → (σ = 0x000006B1 ↔ τ = 0x000006B1))
    (hBE : index = 0x0B ∨ index = 0x0E → (σ = 0x00000F13 ↔ τ = 0x00000F13)) :
    brandIndexInfo index σ = brandIndexInfo index τ := by
  by_cases i3 : index = 0x03
  · subst i3
    simp only [brandIndexInfo_index03, h3 rfl]
  by_cases iB : index = 0x0B
  · subst iB
    simp only [brandIndexInfo_index0B, hBE (.inl rfl)]
  by_cases iE : index = 0x0E
  · subst iE
    simp only [brandIndexInfo_index0E, hBE (.inr rfl)]
  exact brandIndexInfo_of_other_index i3 iB iE σ τ

/-! ## The reserved range -/

/-- The last branch of the table is the reserved range; every branch before it is for one index below
18H and gives another entry, whatever the signature. -/
theorem brandIndexInfo_eq_reserved_iff (index : Byte) (signature : Word) :
    brandIndexInfo index signature = .reserved ↔ 0x18 ≤ index.toNat := by
  unfold brandIndexInfo
  split
  case h_25 =>
    simp only [imp_false, true_iff] at *
    omega
  all_goals simp [*, ite_eq_iff]

/-! ## The statement -/

/-- Settles O57: a signature that no row singles out reads the table as 00000F00H does, which is
evaluated; the two others differ from it in the answer to one question only. -/
theorem brandIndexTableEntries : Obligations.BrandIndexTableEntries := by
  unfold Obligations.BrandIndexTableEntries
  refine fun signature => ⟨fun h6B1 hF13 => ?plain, fun index h3 => ?sig6B1,
    brandIndexInfo_index03 _, fun index hB hE => ?sigF13, brandIndexInfo_index0B _,
    brandIndexInfo_index0E _, fun index => brandIndexInfo_eq_reserved_iff index signature⟩
  case plain =>
    have hrow : ∀ n ∈ List.range 0x18, brandIndexInfo (BitVec.ofNat 8 n) signature =
        brandIndexInfo (BitVec.ofNat 8 n) 0x00000F00 := fun n _ =>
      brandIndexInfo_congr (fun _ => iff_of_false h6B1 (by decide))
        (fun _ => iff_of_false hF13 (by decide))
    rw [List.map_congr_left hrow]
    rfl
  case sig6B1 => exact brandIndexInfo_congr (fun h => absurd h h3) (fun _ => by decide)
  case sigF13 =>
    exact brandIndexInfo_congr (fun _ => by decide) (fun h => absurd h (not_or_intro hB hE))

end Sys2Proof.Machine
end

section
/-! Proofs about exceptions (spec/60_exceptions.md): which bytes the machine fetches as an
instruction, and the one fault a step can end in. -/

namespace Sys2Proof

/-! ## The decoder -/

/-- The opcode word is CPUID's for the bytes `0F A2` alone: its halves are the two bytes (R38). -/
theorem opcodeWord_eq_cpuid_iff (b0 b1 : Byte) :
    opcodeWord b0 b1 = 0x0FA2 ↔ b0 = 0x0F ∧ b1 = 0xA2 := by
  constructor
  · intro h
    have hi : (opcodeWord b0 b1).extractLsb' 8 8 = b0 := BitVec.extractLsb'_append_eq_left
    have lo : (opcodeWord b0 b1).extractLsb' 0 8 = b1 := BitVec.extractLsb'_append_eq_right
    rw [h] at hi lo
    exact ⟨hi.symm, lo.symm⟩
  · rintro ⟨rfl, rfl⟩
    rfl

/-- The opcode table's one row has a full mask, so no other pattern matches it. -/
theorem decodeWord_of_ne {w : BitVec 16} (h : w ≠ 0x0FA2) : decodeWord w = none := by
  have hmask : w &&& 0xFFFF#16 = w := BitVec.and_allOnes
  simpa [decodeWord, opcodeTable, hmask] using h

/-- Two bytes other than `0F A2` are no instruction, whatever follows (R40, R42). -/
theorem decode_pair_of_ne {b0 b1 : Byte} (h : ¬(b0 = 0x0F ∧ b1 = 0xA2)) (rest : List Byte) :
    ∃ e, decode (b0 :: b1 :: rest) = .error e := by
  have hword : decodeWord (opcodeWord b0 b1) = none :=
    decodeWord_of_ne (mt (opcodeWord_eq_cpuid_iff b0 b1).mp h)
  simp only [decode, hword]
  split
  · exact ⟨_, rfl⟩
  · exact ⟨_, rfl⟩

end Sys2Proof

namespace Sys2Proof.Machine

open Sys2Proof.Safety

/-! ## The fetch -/

theorem State.fetch_of_textAt_cpuid {s : State} (h : TextAt s 0x0F 0xA2) :
    s.fetch = .ok .cpuid := by
  obtain ⟨hpc, h0, h1⟩ := h
  rw [State.fetch, State.fetchBytes_of hpc h0 h1]
  rfl

/-- Any other text is refused as undecodable (R40, R42). -/
theorem State.fetch_of_textAt_other {s : State} {b0 b1 : Byte} (h : TextAt s b0 b1)
    (hne : ¬(b0 = 0x0F ∧ b1 = 0xA2)) : ∃ e, s.fetch = .error (.undecodable e) := by
  obtain ⟨hpc, h0, h1⟩ := h
  obtain ⟨e, he⟩ := decode_pair_of_ne hne []
  refine ⟨e, ?_⟩
  simp only [State.fetch, State.fetchBytes_of hpc h0 h1, he]

/-- An instruction is fetched only where `0F A2` stands at the program counter. -/
theorem State.textAt_cpuid_of_fetch {s : State} {i : Instr} (h : s.fetch = .ok i) :
    TextAt s 0x0F 0xA2 := by
  cases hb : s.fetchBytes with
  | error r =>
    rw [State.fetch, hb] at h
    cases h
  | ok p =>
    have htext : TextAt s p.1 p.2 := State.fetchBytes_ok hb
    by_cases hp : p.1 = 0x0F ∧ p.2 = 0xA2
    · rwa [hp.1, hp.2] at htext
    · obtain ⟨e, he⟩ := State.fetch_of_textAt_other htext hp
      rw [he] at h
      cases h

/-! ## Faults -/

/-- CPUID faults exactly where it is not implemented, and then with `#UD` (R102). -/
theorem execCpuid_fault_iff {s : State} {r : Fault} :
    execCpuid s = .fault r ↔ s.cfg.cpuidImpl = false ∧ r = .invalidOpcode := by
  cases hc : s.cfg.cpuidImpl with
  | true => simp [execCpuid_of_impl hc]
  | false => simp [execCpuid_of_not_impl hc]

/-- A fault is an instruction's own: the fetch before it can only be refused (R24). -/
theorem step_fault {s : State} {r : Fault} (h : step s = .fault r) :
    ∃ i, s.fetch = .ok i ∧ exec i s = .fault r := by
  unfold step at h
  split at h
  · rename_i i hi
    exact ⟨i, hi, h⟩
  · cases h

/-- Where `0F A2` stands at the program counter, a step is CPUID. -/
theorem step_of_textAt_cpuid {s : State} (h : TextAt s 0x0F 0xA2) : step s = execCpuid s := by
  rw [step, State.fetch_of_textAt_cpuid h]
  exact exec_cpuid s

/-- Settles O10: a fault is that of a fetched instruction, `0F A2` is the only text that is fetched
as one, and CPUID's one fault is `#UD` where it is not implemented. -/
theorem onlyFaultIsInvalidOpcodeWithoutCpuid :
    Obligations.OnlyFaultIsInvalidOpcodeWithoutCpuid := by
  unfold Obligations.OnlyFaultIsInvalidOpcodeWithoutCpuid
  intro s r
  constructor
  · intro h
    obtain ⟨i, hfetch, -⟩ := step_fault h
    have htext := State.textAt_cpuid_of_fetch hfetch
    exact ⟨htext, execCpuid_fault_iff.mp (step_of_textAt_cpuid htext ▸ h)⟩
  · rintro ⟨htext, hfault⟩
    rw [step_of_textAt_cpuid htext]
    exact execCpuid_fault_iff.mpr hfault

end Sys2Proof.Machine
end

section
/-! Proofs about reset (spec/70_reset_and_hazards.md): the one model-specific register bit that has a
stated default. -/

namespace Sys2Proof.Machine

/-- BOOT_NT4 is clear after reset, its default (R119). -/
@[simp] theorem State.resetFrom_bootNt4 (p : State) : (State.resetFrom p).bootNt4 = false := by
  rw [State.bootNt4, State.resetFrom_miscEnable, getLsbD_withBit _ _ _ (by decide), if_pos rfl]

/-- Settles O37: with the bit clear the maximum is the configuration's, and reset leaves the
configuration as it was. -/
theorem resetClearsBootNt4 : Obligations.ResetClearsBootNt4 := by
  unfold Obligations.ResetClearsBootNt4
  intro p
  have hclear := State.resetFrom_bootNt4 p
  have hmax : (State.resetFrom p).effMaxBasic = (State.resetFrom p).cfg.maxBasic :=
    State.effMaxBasic_of_clear hclear
  exact ⟨hclear, hmax.trans (congrArg Config.maxBasic (State.resetFrom_cfg p))⟩

end Sys2Proof.Machine
end

section
/-! Proofs about the encoding (spec/30_encoding.md) and the fetch (spec/20_memory.md): what decodes,
what a step does with it, and where the fetched bytes come from. -/

namespace Sys2Proof

/-! ## The decoder and the encoder -/

/-- The bytes of CPUID (R37). -/
@[simp] theorem encode_cpuid : encode .cpuid = [0x0F, 0xA2] := by decide

/-- The bytes of CPUID decode to it, whatever follows (R40). -/
theorem decode_cpuid (rest : List Byte) : decode (0x0F :: 0xA2 :: rest) = .ok (.cpuid, rest) := rfl

/-- One byte is no instruction, whichever of the two refusals it gets (R37, R42). -/
theorem decode_single (b : Byte) : ∃ e, decode [b] = .error e := by
  simp only [decode]
  split
  · exact ⟨_, rfl⟩
  · exact ⟨_, rfl⟩

/-- The decoder inverts the encoder: what decodes to an instruction is that instruction's bytes and
what follows them, and nothing else. -/
theorem decode_ok_iff {bytes rest : List Byte} {i : Instr} :
    decode bytes = .ok (i, rest) ↔ bytes = encode i ++ rest := by
  constructor
  · intro h
    match bytes with
    | [] => cases h
    | [b] =>
      obtain ⟨e, he⟩ := decode_single b
      cases he.symm.trans h
    | b0 :: b1 :: tail =>
      by_cases hb : b0 = 0x0F ∧ b1 = 0xA2
      · obtain ⟨rfl, rfl⟩ := hb
        cases (decode_cpuid tail).symm.trans h
        rw [encode_cpuid]
        rfl
      · obtain ⟨e, he⟩ := decode_pair_of_ne hb tail
        cases he.symm.trans h
  · rintro rfl
    cases i
    rw [encode_cpuid]
    exact decode_cpuid rest

/-- Settles O3: both ways are `decode_ok_iff`; that every instruction is well formed and two bytes
long is said of each one in `Laws.OpcodeLength`. -/
theorem decodeAndEncodeAgree : Obligations.DecodeAndEncodeAgree := by
  unfold Obligations.DecodeAndEncodeAgree
  refine ⟨fun i rest _ => decode_ok_iff.mpr rfl, fun bytes rest i h => ?_⟩
  have hbytes := decode_ok_iff.mp h
  obtain ⟨hwf, hlen, -⟩ : Laws.OpcodeLength.Statement i := by
    cases i
    exact Laws.OpcodeLength.cpuid
  refine ⟨hwf, hbytes, ?_⟩
  rw [hbytes, List.length_append, hlen, Nat.add_comm]

/-- The opcode word as a number: the first byte shifted left by 8 and joined with the second (R38).
-/
theorem toNat_opcodeWord (b0 b1 : Byte) :
    (opcodeWord b0 b1).toNat = b0.toNat <<< 8 ||| b1.toNat :=
  BitVec.toNat_append b0 b1

/-- Settles O2: the 16 bits of the mask keep the whole opcode word, so the pattern is matched by
CPUID's two bytes alone, and they are what decodes. -/
theorem exactlyTheOpcodePatternDecodes : Obligations.ExactlyTheOpcodePatternDecodes := by
  unfold Obligations.ExactlyTheOpcodePatternDecodes
  intro b0 b1 rest
  have hmask : (opcodeWord b0 b1).toNat &&& 0xFFFF = (opcodeWord b0 b1).toNat :=
    (Nat.and_two_pow_sub_one_eq_mod _ 16).trans (Nat.mod_eq_of_lt (opcodeWord b0 b1).isLt)
  have hword : (opcodeWord b0 b1).toNat = 0x0FA2 ↔ b0 = 0x0F ∧ b1 = 0xA2 :=
    BitVec.toNat_inj.trans (opcodeWord_eq_cpuid_iff b0 b1)
  rw [← toNat_opcodeWord, hmask, hword]
  simp [decode_ok_iff]

/-- Settles O1: five concrete byte sequences, evaluated. -/
theorem opcodeBytesDecodeToCpuid : Obligations.OpcodeBytesDecodeToCpuid := by
  unfold Obligations.OpcodeBytesDecodeToCpuid
  exact ⟨encode_cpuid, decode_cpuid _, decode_cpuid _, rfl, rfl, rfl, rfl, rfl⟩

end Sys2Proof

namespace Sys2Proof.Machine

open Sys2Proof.Safety

/-! ## A step and its fetch -/

theorem step_of_fetch_ok {s : State} {i : Instr} (h : s.fetch = .ok i) : step s = exec i s := by
  rw [step, h]

theorem step_of_fetch_error {s : State} {r : Refusal} (h : s.fetch = .error r) :
    step s = .refused r := by
  rw [step, h]

/-- Bytes that cannot be fetched refuse the fetch for the same reason. -/
theorem State.fetch_of_fetchBytes_error {s : State} {r : Refusal} (h : s.fetchBytes = .error r) :
    s.fetch = .error r := by
  rw [State.fetch, h]

/-- The instruction fetched is what the two bytes at the program counter decode to. -/
theorem State.fetch_of_decode {s : State} {b0 b1 : Byte} {i : Instr} (h : TextAt s b0 b1)
    (hd : decode [b0, b1] = .ok (i, [])) : s.fetch = .ok i := by
  obtain ⟨hpc, h0, h1⟩ := h
  simp only [State.fetch, State.fetchBytes_of hpc h0 h1, hd]

theorem State.fetchBytes_top {s : State} (hpc : s.pc = 0xFFFFFFFF) :
    s.fetchBytes = .error .fetchStraddlesTop := by
  rw [State.fetchBytes, if_pos hpc]

theorem State.fetchBytes_first_missing {s : State} (hpc : s.pc ≠ 0xFFFFFFFF)
    (h0 : s.mem.readByte s.pc.toNat = none) : s.fetchBytes = .error (.noProgramText s.pc) := by
  rw [State.fetchBytes, if_neg hpc, h0]

theorem State.fetchBytes_second_missing {s : State} {b : Byte} (hpc : s.pc ≠ 0xFFFFFFFF)
    (h0 : s.mem.readByte s.pc.toNat = some b) (h1 : s.mem.readByte (s.pc + 1).toNat = none) :
    s.fetchBytes = .error (.noProgramText (s.pc + 1)) := by
  rw [State.fetchBytes, if_neg hpc, h0, h1]

/-- Settles O4: the fetch of any other text is refused as undecodable, and a step with it. -/
theorem otherFirstBytesAreRefused : Obligations.OtherFirstBytesAreRefused := by
  unfold Obligations.OtherFirstBytesAreRefused
  intro s b0 b1 htext hne
  obtain ⟨e, he⟩ := State.fetch_of_textAt_other htext hne
  exact ⟨e, step_of_fetch_error he⟩

/-- Settles O5: the step runs what the fetch gives, and the fetch gives what the bytes decode to. -/
theorem stepRunsTheDecodedInstruction : Obligations.StepRunsTheDecodedInstruction := by
  unfold Obligations.StepRunsTheDecodedInstruction
  exact fun s b0 b1 i htext hd _ => step_of_fetch_ok (State.fetch_of_decode htext hd)

/-- Settles O6: the fetch asks its three questions in this order, and a refused fetch refuses the
step. -/
theorem fetchIsRefusedAtTheTopAndWithoutText :
    Obligations.FetchIsRefusedAtTheTopAndWithoutText := by
  unfold Obligations.FetchIsRefusedAtTheTopAndWithoutText
  have hstep : ∀ {s : State} {r : Refusal}, s.fetchBytes = .error r → step s = .refused r :=
    fun h => step_of_fetch_error (State.fetch_of_fetchBytes_error h)
  exact ⟨fun s hpc => hstep (State.fetchBytes_top hpc),
    fun s hpc h0 => hstep (State.fetchBytes_first_missing hpc h0),
    fun s b hpc h0 h1 => hstep (State.fetchBytes_second_missing hpc h0 h1)⟩

/-! ## Bytes written where the next fetch reads them -/

/-- Bytes are written exactly where they fit below the top of the address space (R28, D4). -/
theorem Memory.writeBytes_eq_some_iff {m m' : Memory} {a : Word} {bs : List Byte} :
    m.writeBytes a bs = some m' ↔
      a.toNat + bs.length ≤ 2 ^ 32 ∧ Memory.writeBytes.go m a.toNat bs = m' := by
  rw [Memory.writeBytes, Option.ite_none_right_eq_some, Option.some_inj]

/-- The address after one below the top is the next number. -/
theorem toNat_add_one_of_lt {a : Word} (h : a.toNat + 2 ≤ 2 ^ 32) : (a + 1).toNat = a.toNat + 1 :=
  BitVec.toNat_add_of_lt h

/-- Two bytes written at the program counter are the text there. -/
theorem textAt_of_writeBytes {s : State} {m : Memory} {b0 b1 : Byte}
    (h : m.writeBytes s.pc [b0, b1] = some s.mem) : TextAt s b0 b1 := by
  obtain ⟨hle, hmem⟩ := Memory.writeBytes_eq_some_iff.mp h
  refine ⟨fun hpc => ?top, ?first, ?second⟩
  case top =>
    rw [hpc] at hle
    exact absurd hle (Nat.not_le_of_lt (Nat.lt_succ_self _))
  case first =>
    rw [← hmem]
    exact Memory.readByte_writeBytes_go (k := 0) (bs := [b0, b1]) Nat.zero_lt_two
  case second =>
    rw [← hmem, toNat_add_one_of_lt hle]
    exact Memory.readByte_writeBytes_go (k := 1) (bs := [b0, b1]) Nat.one_lt_two

/-- Below FFFFFFFFH the opcode word's two bytes fit at the program counter, and placing it writes
them. -/
theorem State.withFetchWord_mem {s : State} (hpc : s.pc ≠ 0xFFFFFFFF) :
    s.mem.writeBytes s.pc [0x0F, 0xA2] = some (s.withFetchWord 16 0x0FA2).mem := by
  have hne : s.pc.toNat ≠ 0xFFFFFFFF := fun h => hpc (BitVec.eq_of_toNat_eq h)
  have hle : s.pc.toNat + [(0x0F : Byte), 0xA2].length ≤ 2 ^ 32 := by
    have hlt := s.pc.isLt
    simp only [List.length_cons, List.length_nil]
    omega
  have hbytes : tableWordBytes 16 0x0FA2 = [0x0F, 0xA2] := by decide
  have hsome : s.mem.writeBytes s.pc [0x0F, 0xA2] = some _ :=
    Memory.writeBytes_eq_some_iff.mpr ⟨hle, rfl⟩
  rw [State.withFetchWord, State.placeAtPc_mem, hbytes, hsome, Option.getD_some]

/-- Settles O7: the placed bytes are the text at the program counter, and a write leaves every other
address alone. -/
theorem placedOpcodeWordRunsNext : Obligations.PlacedOpcodeWordRunsNext := by
  unfold Obligations.PlacedOpcodeWordRunsNext
  intro s hpc
  have hwrite := State.withFetchWord_mem hpc
  have htext : TextAt (s.withFetchWord 16 0x0FA2) 0x0F 0xA2 := textAt_of_writeBytes hwrite
  obtain ⟨hle, hmem⟩ := Memory.writeBytes_eq_some_iff.mp hwrite
  refine ⟨step_of_textAt_cpuid htext, fun a h0 h1 => ?_⟩
  rw [toNat_add_one_of_lt hle] at h1
  rw [← hmem]
  refine Memory.readByte_writeBytes_go_other ?_
  simp only [List.length_cons, List.length_nil]
  omega

/-- Settles O8: CPUID leaves memory alone and moves the program counter to where the bytes were
written. -/
theorem fetchAfterCpuidSeesEarlierStores : Obligations.FetchAfterCpuidSeesEarlierStores := by
  unfold Obligations.FetchAfterCpuidSeesEarlierStores
  intro s t m b0 b1 hwrite hexec
  obtain ⟨-, rfl⟩ := execCpuid_next_iff.mp hexec
  obtain ⟨hpc, h0, h1⟩ : TextAt (State.afterCpuid { s with mem := m }) b0 b1 :=
    textAt_of_writeBytes hwrite
  exact State.fetchBytes_of hpc h0 h1

end Sys2Proof.Machine
end

section
/-! Proofs about the CPUID instruction as a whole (spec/40_cpuid_instruction.md sections 2, 3 and
5): what it leaves alone, what it does not read, and what comes out the same at every execution. -/

namespace Sys2Proof.Machine

open Sys2Proof.Safety

/-! ## The frame -/

/-- Everything that R18 lists stays as it is, whatever leaf is selected. -/
theorem State.untouched_afterCpuid (s : State) : Untouched s s.afterCpuid where
  cfg := s.afterCpuid_cfg
  eflags := s.afterCpuid_eflags
  miscEnable := s.afterCpuid_miscEnable
  ucodeSig := s.afterCpuid_ucodeSig
  named := s.afterCpuid_named
  byte _ := congrArg (Memory.readByte · _) s.afterCpuid_mem

/-- Only an execution that selects leaf 2 with more than one image moves the leaf-2 position (R20).
-/
theorem State.nextLeaf2Position_of_not {s : State}
    (h : ¬(s.selectedLeaf = 2 ∧ 1 < s.cfg.leaf2Count)) : s.nextLeaf2Position = s.l2pos := by
  rw [State.nextLeaf2Position, if_neg h]

/-- One image is not more than one. -/
theorem Config.not_one_lt_leaf2Count {c : Config} (h : c.leaf2More = []) : ¬1 < c.leaf2Count := by
  rw [Config.leaf2Count, h]
  exact Nat.lt_irrefl 1

/-- Settles O11: the next state is `afterCpuid`, and the two registers with a condition are left
alone by the other branch of their definitions. -/
theorem cpuidFrame : Obligations.CpuidFrame := by
  unfold Obligations.CpuidFrame
  exact fun s h => ⟨s.afterCpuid, execCpuid_of_impl h, s.afterCpuid_pc, s.untouched_afterCpuid,
    State.loadedSignature_of_not, State.nextLeaf2Position_of_not⟩

/-- Settles O34: a leaf above 5 is not leaf 2, so the frame of CPUID holds of its selection with the
leaf-2 position among it. -/
theorem leafWithoutContentCompletes : Obligations.LeafWithoutContentCompletes := by
  unfold Obligations.LeafWithoutContentCompletes
  intro s h habove _
  have hne : s.selectedLeaf ≠ 2 := fun h2 => by
    rw [h2] at habove
    exact absurd habove (by decide)
  exact ⟨s.afterCpuid, execCpuid_of_impl h, s.afterCpuid_pc, s.untouched_afterCpuid,
    State.nextLeaf2Position_of_not fun h2 => hne h2.1, State.loadedSignature_of_not⟩

/-! ## What CPUID does not read -/

/-- EFLAGS passes through CPUID, and nothing else depends on it (R52). -/
theorem State.afterCpuid_with_eflags (s : State) (flags : Word) :
    State.afterCpuid { s with eflags := flags } = { s.afterCpuid with eflags := flags } := rfl

/-- The registers the spec only names pass through CPUID, and nothing else depends on them (R51). -/
theorem State.afterCpuid_with_named (s : State) (n : NamedState) :
    State.afterCpuid { s with named := n } = { s.afterCpuid with named := n } := rfl

/-- CPUID overwrites EBX and EDX, and reads neither (R51). -/
theorem State.afterCpuid_writeReg_ebx_edx (s : State) (b d : Word) :
    ((s.writeReg .ebx b).writeReg .edx d).afterCpuid = s.afterCpuid := rfl

/-- CPUID overwrites ECX, and reads it for leaf 4 alone (R51). -/
theorem State.afterCpuid_writeReg_ecx {s : State} (h : s.selectedLeaf ≠ 4) (c : Word) :
    (s.writeReg .ecx c).afterCpuid = s.afterCpuid := by
  have hrow : (s.leafRow s.selectedLeaf c).resolve s.draws =
      (s.leafRow s.selectedLeaf s.regs.ecx).resolve s.draws :=
    congrArg (·.resolve s.draws) (s.leafRow_ecx c s.regs.ecx h)
  have hregs : (s.writeReg .ecx c).cpuidResult = s.cpuidResult := hrow
  rw [State.afterCpuid_eq, State.afterCpuid_eq, hregs]
  rfl

/-- Settles O12: with another EFLAGS the execution still completes, and ends in the same state but
for EFLAGS. -/
theorem cpuidReadsAndWritesNoFlag : Obligations.CpuidReadsAndWritesNoFlag := by
  unfold Obligations.CpuidReadsAndWritesNoFlag
  intro s flags h
  refine ⟨s.afterCpuid, execCpuid_of_impl h, s.afterCpuid_eflags, ?_⟩
  rw [← State.afterCpuid_with_eflags]
  exact execCpuid_of_impl (s := { s with eflags := flags }) h

/-- Settles O13: each of the changed states completes too, and its `afterCpuid` is the one before.
-/
theorem ignoredInputsDoNotMatter : Obligations.IgnoredInputsDoNotMatter := by
  unfold Obligations.IgnoredInputsDoNotMatter
  intro s h
  refine ⟨s.afterCpuid, execCpuid_of_impl h, fun b d => ?ebxEdx, fun h4 c => ?ecx, fun n => ?named⟩
  case ebxEdx =>
    rw [← s.afterCpuid_writeReg_ebx_edx b d]
    exact execCpuid_of_impl (s := (s.writeReg .ebx b).writeReg .edx d) h
  case ecx =>
    rw [← State.afterCpuid_writeReg_ecx h4 c]
    exact execCpuid_of_impl (s := s.writeReg .ecx c) h
  case named =>
    rw [← State.afterCpuid_with_named]
    exact execCpuid_of_impl (s := { s with named := n }) h

/-! ## Repeatability -/

/-- A register that the selected leaf's row gives a value receives it. -/
theorem State.readReg_afterCpuid {s : State} {r : Reg} {w : Word}
    (h : (s.leafRow s.selectedLeaf s.regs.ecx).word r = .value w) :
    s.afterCpuid.readReg r = w := by
  have hregs : (s.setRegs s.cpuidResult).readReg r = w := LeafRow.resolve_word s s.draws h
  rw [← hregs]
  cases r <;> rfl

/-- With one leaf-2 image the rows depend on the configuration and the BOOT_NT4 bit alone. -/
theorem State.leafRow_congr_of_single {s t : State} (hc : t.cfg = s.cfg)
    (hb : t.bootNt4 = s.bootNt4) (h1 : s.cfg.leaf2More = []) (leaf ecx : Word) :
    t.leafRow leaf ecx = s.leafRow leaf ecx := by
  have hmax : t.effMaxBasic = s.effMaxBasic := State.effMaxBasic_congr hc hb
  have h2 : leaf2Row t.cfg t.l2pos = leaf2Row s.cfg s.l2pos := by
    rw [hc, leaf2Row, leaf2Row, Config.leaf2At_single h1, Config.leaf2At_single h1]
  unfold State.leafRow
  rw [hmax, h2, hc]

/-- Settles O15: both executions select one row, and each of its values is what the register gets.
-/
theorem identificationDataIsRepeatable : Obligations.IdentificationDataIsRepeatable := by
  unfold Obligations.IdentificationDataIsRepeatable
  intro s t s' t' r w hc hb h1 hleaf hecx hs ht hrow
  obtain ⟨-, rfl⟩ := execCpuid_next_iff.mp hs
  obtain ⟨-, rfl⟩ := execCpuid_next_iff.mp ht
  have hindex : s.leafRow s.selectedLeaf t.regs.ecx = s.leafRow s.selectedLeaf s.regs.ecx := by
    by_cases h4 : s.selectedLeaf = 4
    · rw [hecx h4]
    · exact s.leafRow_ecx _ _ h4
  have hrow' : (t.leafRow t.selectedLeaf t.regs.ecx).word r = .value w := by
    rw [hleaf, State.leafRow_congr_of_single hc hb h1, hindex]
    exact hrow
  exact ⟨State.readReg_afterCpuid hrow, State.readReg_afterCpuid hrow'⟩

end Sys2Proof.Machine
end

section
/-! Proofs about leaf selection (spec/40_cpuid_instruction.md R47, R48) and about the processor rows
of spec/00_scope.md R2: which inputs select themselves, and where the others go. -/

namespace Sys2Proof.Machine

open Sys2Proof.Safety

/-! ## Selection as unsigned numbers -/

/-- An input above the maxima selects the highest basic leaf (R47, D5). -/
theorem State.selectLeaf_of_outOfRange {s : State} {v : Word} (h : OutOfRange s v) :
    s.selectLeaf v = s.effMaxBasic := by
  obtain ⟨habove, hext⟩ := h
  obtain ⟨hle, -⟩ | ⟨-, hx, h1, h2, -⟩ | ⟨-, -, hsel⟩ := s.selectLeaf_cases v
  · exact absurd (BitVec.le_def.mp hle) (Nat.not_le_of_lt habove)
  · exact absurd ⟨hx, BitVec.le_def.mp h1, BitVec.le_def.mp h2⟩ hext
  · exact hsel

/-- An input above the maxima acts as the highest basic input: both select the same leaf. -/
theorem execCpuid_of_outOfRange {s : State} {v : Word} (h : OutOfRange s v) :
    execCpuid (s.writeReg .eax v) = execCpuid (s.writeReg .eax s.effMaxBasic) :=
  execCpuid_writeReg_eax_congr
    ((State.selectLeaf_of_outOfRange h).trans s.selectLeaf_effMaxBasic.symm)

/-- A basic input above the effective maximum is above the maxima: no extended leaf is that low. -/
theorem outOfRange_of_basic {s : State} {v : Word} (h : s.effMaxBasic.toNat < v.toNat)
    (hv : v.toNat < 0x80000000) : OutOfRange s v :=
  ⟨h, fun hx => absurd hx.2.1 (Nat.not_le_of_lt hv)⟩

/-- Without extended leaves every input above the effective maximum is above the maxima. -/
theorem outOfRange_of_no_ext {s : State} {v : Word} (h : s.effMaxBasic.toNat < v.toNat)
    (hx : s.cfg.extImpl = false) : OutOfRange s v :=
  ⟨h, fun he => absurd (hx.symm.trans he.1) Bool.false_ne_true⟩

/-- Settles O16: the three clauses are the three ways of `State.selectLeaf_cases`, as numbers. -/
theorem inputSelectsItselfOrTheHighestBasicLeaf :
    Obligations.InputSelectsItselfOrTheHighestBasicLeaf := by
  unfold Obligations.InputSelectsItselfOrTheHighestBasicLeaf
  exact fun s v => ⟨fun h => State.selectLeaf_of_le (BitVec.le_def.mpr h),
    fun hx h1 h2 => State.selectLeaf_of_ext hx (BitVec.le_def.mpr h1) (BitVec.le_def.mpr h2),
    State.selectLeaf_of_outOfRange⟩

/-- Settles O17: EAX matters through the leaf it selects alone. -/
theorem outOfRangeInputActsAsTheHighestBasicLeaf :
    Obligations.OutOfRangeInputActsAsTheHighestBasicLeaf := by
  unfold Obligations.OutOfRangeInputActsAsTheHighestBasicLeaf
  exact fun s v h => execCpuid_of_outOfRange h

/-- Settles O22: an input selects itself or the highest basic leaf, and that leaf is at least 1. -/
theorem onlyInputZeroSelectsLeafZero : Obligations.OnlyInputZeroSelectsLeafZero := by
  unfold Obligations.OnlyInputZeroSelectsLeafZero
  intro s v h hwf
  constructor
  · intro h0
    obtain ⟨-, hsel⟩ | ⟨-, -, -, -, hsel⟩ | ⟨-, -, hsel⟩ := s.selectLeaf_cases v
    · exact hsel.symm.trans h0
    · exact hsel.symm.trans h0
    · have hone := State.one_le_effMaxBasic h hwf
      rw [← hsel, h0] at hone
      exact absurd hone (by decide)
  · rintro rfl
    exact s.selectLeaf_zero

/-! ## BOOT_NT4 -/

/-- What leaf 0 reports: input 0 returns the effective maximum, whatever was in EAX before (R58). -/
theorem State.exists_execCpuid_zero {s : State} (h : s.cfg.cpuidImpl = true) :
    ∃ t, execCpuid (s.writeReg .eax 0) = .next t ∧
      t.regs = ⟨s.effMaxBasic, pack4 s.cfg.vendor 0 (by decide),
        pack4 s.cfg.vendor 8 (by decide), pack4 s.cfg.vendor 4 (by decide)⟩ :=
  ⟨_, execCpuid_of_impl (s := s.writeReg .eax 0) h,
    State.cpuidResult_of_eax_zero (s := s.writeReg .eax 0) rfl⟩

/-- Settles O18: BOOT_NT4 acts through the effective maximum alone. Set, that is the smaller of
MAX_BASIC and 3, and a basic input above it is above the maxima; clear or absent, it is MAX_BASIC.
-/
theorem bootNt4HidesBasicLeavesAboveThree : Obligations.BootNt4HidesBasicLeavesAboveThree := by
  unfold Obligations.BootNt4HidesBasicLeavesAboveThree
  intro s h
  obtain ⟨t, ht, hregs⟩ := State.exists_execCpuid_zero h
  have heax : t.regs.eax = s.effMaxBasic := congrArg Quad.eax hregs
  refine ⟨fun hi hb => ?set, fun hoff => ?clear⟩
  case set =>
    have hmax := State.effMaxBasic_of_set hi hb
    rw [← hmax, BitVec.ofNat_toNat, BitVec.setWidth_eq]
    exact ⟨⟨t, ht, congrArg BitVec.toNat heax⟩,
      fun v hv => State.selectLeaf_of_le (BitVec.le_def.mpr hv),
      fun v hv hbasic =>
        execCpuid_of_outOfRange (outOfRange_of_basic hv (Nat.lt_succ_of_le hbasic)),
      fun v hx h1 h2 => State.selectLeaf_of_ext hx (BitVec.le_def.mpr h1) (BitVec.le_def.mpr h2)⟩
  case clear =>
    have hmax : s.effMaxBasic = s.cfg.maxBasic :=
      hoff.elim State.effMaxBasic_of_absent State.effMaxBasic_of_clear
    rw [← hmax]
    exact ⟨⟨t, ht, heax⟩, fun v hv => State.selectLeaf_of_le (BitVec.le_def.mpr hv)⟩

/-! ## The processor rows -/

/-- The basic leaves of a row are those up to its maximum (R75). -/
theorem ProcessorRow.mem_leavesPresent {r : ProcessorRow} {m : Word} (h : r.maxBasic = some m)
    (n : Nat) : n ∈ r.leavesPresent ↔ n ≤ m.toNat := by
  simp only [ProcessorRow.leavesPresent, h, List.mem_range, Nat.lt_succ_iff]

/-- Settles O19: with BOOT_NT4 clear the effective maximum is the row's, so the row's leaves are the
inputs up to it. The tables of R75 and R2 are evaluated. -/
theorem basicLeavesOfEachProcessorRow : Obligations.BasicLeavesOfEachProcessorRow := by
  unfold Obligations.BasicLeavesOfEachProcessorRow
  refine ⟨fun s r m v hrow hm hb hv => ?select, by decide⟩
  obtain ⟨-, hcfg⟩ := Config.maximaOfRow_some hrow hm
  have hmax : s.effMaxBasic = m := (State.effMaxBasic_of_clear hb).trans hcfg
  rw [ProcessorRow.mem_leavesPresent hm, ← hmax]
  exact ⟨fun hle => State.selectLeaf_of_le (BitVec.le_def.mpr hle),
    fun hgt => State.selectLeaf_of_outOfRange (outOfRange_of_basic (Nat.lt_of_not_le hgt) hv)⟩

/-- BOOT_NT4 never raises the maximum (R48). -/
theorem State.effMaxBasic_le (s : State) : s.effMaxBasic.toNat ≤ s.cfg.maxBasic.toNat := by
  cases hi : s.cfg.bootNt4Impl with
  | false => rw [State.effMaxBasic_of_absent hi]
  | true =>
    cases hb : s.bootNt4 with
    | false => rw [State.effMaxBasic_of_clear hb]
    | true =>
      rw [State.effMaxBasic_of_set hi hb]
      exact Nat.min_le_left _ _

/-- Every row's basic maximum is below the extended inputs (R2). -/
theorem ProcessorRow.maxBasic_lt {r : ProcessorRow} {m : Word} (h : r.maxBasic = some m) :
    m.toNat < 0x80000000 := by
  cases r <;> cases h <;> decide

/-- A processor that implements CPUID is of a row with a basic maximum, and that is its own. -/
theorem Config.maxBasic_of_maximaOfRow {c : Config} {r : ProcessorRow}
    (h : c.maximaOfRow r = true) (hc : c.cpuidImpl = true) : r.maxBasic = some c.maxBasic := by
  cases hm : r.maxBasic with
  | none => simp [Config.maximaOfRow, hm, hc] at h
  | some m => rw [(Config.maximaOfRow_some h hm).2]

/-- Settles O20: such an input is above the row's basic maximum, and there is no extended leaf that
it could select. -/
theorem noExtendedLeavesMeansHighestBasicLeaf :
    Obligations.NoExtendedLeavesMeansHighestBasicLeaf := by
  unfold Obligations.NoExtendedLeavesMeansHighestBasicLeaf
  intro s r v hrow hext hc hv
  have hmax := ProcessorRow.maxBasic_lt (Config.maxBasic_of_maximaOfRow hrow hc)
  have habove : s.effMaxBasic.toNat < v.toNat :=
    lt_of_le_of_lt s.effMaxBasic_le (lt_of_lt_of_le hmax hv)
  exact execCpuid_of_outOfRange (outOfRange_of_no_ext habove (Config.maximaOfRow_no_ext hrow hext))

end Sys2Proof.Machine
end

section
/-! Proofs about the leaves whose content is a whole register image (spec/41_basic_leaves.md,
spec/42_cache_tlb_leaf2.md): leaf 2 and leaf 4, and what a well-formed configuration says of their
images. -/

namespace Sys2Proof

/-! ## Lists of pairs -/

/-- What a look-up finds stands in the list. -/
theorem mem_of_lookup_eq_some {α β : Type} [BEq α] [LawfulBEq α] {l : List (α × β)} {k : α} {b : β}
    (h : l.lookup k = some b) : (k, b) ∈ l := by
  obtain ⟨l₁, l₂, rfl, -⟩ := List.lookup_eq_some_iff.mp h
  exact List.mem_append_right l₁ List.mem_cons_self

/-- With no key twice, a look-up finds exactly what stands in the list. -/
theorem lookup_eq_some_iff_mem {α β : Type} [BEq α] [LawfulBEq α] {l : List (α × β)}
    (hl : (l.map Prod.fst).Nodup) {k : α} {b : β} : l.lookup k = some b ↔ (k, b) ∈ l := by
  refine ⟨mem_of_lookup_eq_some, fun h => ?_⟩
  obtain ⟨l₁, l₂, rfl⟩ := List.append_of_mem h
  refine List.lookup_eq_some_iff.mpr ⟨l₁, l₂, rfl, fun p hp => bne_iff_ne.mpr ?_⟩
  rw [List.map_append, List.nodup_append] at hl
  obtain ⟨-, -, hdisjoint⟩ := hl
  exact (hdisjoint p.1 (List.mem_map_of_mem hp) k (List.mem_map_of_mem List.mem_cons_self)).symm

/-! ## Well-formed configurations -/

/-- The seven checks of a well-formed configuration (R4). -/
theorem Config.wf_iff {c : Config} :
    c.wf = true ↔ c.maxBasicOk = true ∧ c.maxExtOk = true ∧ c.leaf2Ok = true ∧ c.psnOk = true ∧
      c.leaf4EdxOk = true ∧ c.leaf4EndOk = true ∧ c.brandOk = true := by
  simp only [Config.wf, Bool.and_eq_true, and_assoc]

/-- AL of every leaf-2 image is the number of images (R77). -/
theorem Config.al_of_leaf2Image {c : Config} (h : c.wf = true) {q : Quad}
    (hq : q ∈ c.leaf2Images) : (byteOf q.eax 0).toNat = c.leaf2Images.length := by
  obtain ⟨-, -, hleaf2, -⟩ := Config.wf_iff.mp h
  exact beq_iff_eq.mp (List.all_eq_true.mp hleaf2 q hq)

/-- EDX of every leaf-4 image is 0, of a listed index and of every other (R71, R73). -/
theorem Config.leaf4At_edx {c : Config} (h : c.wf = true) (index : Word) :
    (c.leaf4At index).edx = 0 := by
  obtain ⟨-, -, -, -, hedx, -⟩ := Config.wf_iff.mp h
  obtain ⟨hrest, hlisted⟩ := Bool.and_eq_true_iff.mp hedx
  unfold Config.leaf4At
  cases hq : c.leaf4Listed.lookup index with
  | none => exact beq_iff_eq.mp hrest
  | some q => exact beq_iff_eq.mp (List.all_eq_true.mp hlisted _ (mem_of_lookup_eq_some hq))

end Sys2Proof

namespace Sys2Proof.Machine

/-! ## The registers of leaves 2 and 4 -/

/-- Leaf 2 (R76): the image at the leaf-2 position. -/
theorem State.cpuidResult_of_leaf_two {s : State} (h : s.selectedLeaf = 2) :
    s.cpuidResult = s.cfg.leaf2At s.l2pos := by
  rw [State.cpuidResult_of_selectedLeaf h, State.leafRow_basic2]
  rfl

/-- Leaf 4 (R71): the image of the index in ECX. -/
theorem State.cpuidResult_of_leaf_four {s : State} (h : s.selectedLeaf = 4) :
    s.cpuidResult = s.cfg.leaf4At s.regs.ecx := by
  rw [State.cpuidResult_of_selectedLeaf h, State.leafRow_basic4]
  rfl

/-! ## The statements -/

/-- Settles O25: with one image every position holds it, and no execution moves the position. -/
theorem leafTwoReturnsItsOnlyImage : Obligations.LeafTwoReturnsItsOnlyImage := by
  unfold Obligations.LeafTwoReturnsItsOnlyImage
  intro s h h2 h1
  refine ⟨s.afterCpuid, execCpuid_of_impl h, ?_,
    State.nextLeaf2Position_of_not fun hmore => Config.not_one_lt_leaf2Count h1 hmore.2⟩
  rw [State.afterCpuid_regs, State.cpuidResult_of_leaf_two h2, Config.leaf2At_single h1]

/-- Settles O26: the image at any position is one of the images, and each of them counts them. -/
theorem leafTwoReturnsOneOfItsImages : Obligations.LeafTwoReturnsOneOfItsImages := by
  unfold Obligations.LeafTwoReturnsOneOfItsImages
  intro s h h2
  have hmem : s.afterCpuid.regs ∈ s.cfg.leaf2Images := by
    rw [State.afterCpuid_regs, State.cpuidResult_of_leaf_two h2]
    exact Config.leaf2At_mem s.cfg s.l2pos
  exact ⟨s.afterCpuid, execCpuid_of_impl h, hmem, fun hwf => Config.al_of_leaf2Image hwf hmem,
    State.nextLeaf2Position_lt⟩

/-- Settles O28: the row of leaf 4 is the index's image whole, and no image of a well-formed
configuration has anything in EDX. -/
theorem leafFourReturnsTheIndexedCache : Obligations.LeafFourReturnsTheIndexedCache := by
  unfold Obligations.LeafFourReturnsTheIndexedCache
  intro s h h4
  refine ⟨s.afterCpuid, execCpuid_of_impl h, ?_⟩
  rw [State.afterCpuid_regs, State.cpuidResult_of_leaf_four h4]
  exact ⟨rfl, fun hwf => Config.leaf4At_edx hwf s.regs.ecx⟩

end Sys2Proof.Machine
end

section
/-! Proofs about runs, the invariant of a good state and reset (spec/10_state.md,
spec/70_reset_and_hazards.md): what one step does, carried over any number of them. -/

namespace Sys2Proof.Machine

open Sys2Proof.Safety

/-! ## The invariant -/

/-- CPUID leaves memory and the configuration alone and keeps the leaf-2 position in range. -/
theorem State.inv_afterCpuid {s : State} (h : Inv s) : Inv s.afterCpuid := by
  obtain ⟨hmem, hcfg, hpos⟩ := h
  exact ⟨hmem, hcfg, State.nextLeaf2Position_lt hpos⟩

/-- Settles O35: the one next state a step can have is CPUID's. -/
theorem stepKeepsTheInvariant : Obligations.StepKeepsTheInvariant := by
  unfold Obligations.StepKeepsTheInvariant
  intro s t hinv hstep
  obtain ⟨-, rfl⟩ := step_next_afterCpuid hstep
  exact State.inv_afterCpuid hinv

/-! ## Reset -/

/-- Reset reduces the leaf-2 position to one of the images' and leaves the rest of the invariant to
the state it starts from. -/
theorem State.inv_resetFrom {p : State} (hmem : p.mem.wf = true) (hcfg : p.cfg.wf = true) :
    Inv (State.resetFrom p) :=
  ⟨hmem, hcfg, Nat.mod_lt _ (Nat.succ_pos _)⟩

/-- Settles O36: the reset state is a reset from the launch values, whose memory is empty and whose
processor is the first Pentium 4. -/
theorem resetMeetsTheInvariant : Obligations.ResetMeetsTheInvariant := by
  unfold Obligations.ResetMeetsTheInvariant
  exact ⟨State.inv_resetFrom (by decide) (by decide),
    fun p hmem hcfg => State.inv_resetFrom hmem hcfg⟩

/-- Reset writes bit 22 of IA32_MISC_ENABLE and no other; above bit 63 there is none. -/
theorem State.getLsbD_resetFrom_miscEnable (p : State) {k : Nat} (hk : k ≠ 22) :
    (State.resetFrom p).miscEnable.getLsbD k = p.miscEnable.getLsbD k := by
  rw [State.resetFrom_miscEnable]
  by_cases hlt : k < 64
  · rw [getLsbD_withBit _ _ _ hlt, if_neg hk]
  · rw [BitVec.getLsbD_of_ge _ _ (Nat.le_of_not_lt hlt),
      BitVec.getLsbD_of_ge _ _ (Nat.le_of_not_lt hlt)]

/-- Settles O38: with one image the position is reduced modulo 1. -/
theorem resetKeepsIdentificationData : Obligations.ResetKeepsIdentificationData := by
  unfold Obligations.ResetKeepsIdentificationData
  refine fun p => ⟨p.resetFrom_cfg, fun k hk => p.getLsbD_resetFrom_miscEnable hk, fun h1 => ?_⟩
  rw [State.resetFrom_l2pos, Config.leaf2Count, h1]
  exact Nat.mod_one _

/-! ## Runs -/

/-- What holds of the empty run, and of a run whose rest it holds of, holds of every run that
answers: each of its steps is a step to CPUID's next state. -/
theorem runSteps_induction {P : ∀ (n : Nat) (s t : State), runSteps n s = .next t → Prop}
    (zero : ∀ s, P 0 s s (runSteps_zero s))
    (succ : ∀ (n : Nat) (s t : State) (hstep : step s = .next s.afterCpuid)
      (hrest : runSteps n s.afterCpuid = .next t), P n s.afterCpuid t hrest →
        P (n + 1) s t ((runSteps_of_next n hstep).trans hrest))
    {n : Nat} {s t : State} (h : runSteps n s = .next t) : P n s t h := by
  induction n generalizing s with
  | zero =>
    cases h
    exact zero t
  | succ n ih =>
    obtain ⟨u, hstep, hrest⟩ := runSteps_succ_next h
    obtain ⟨-, rfl⟩ := step_next_afterCpuid hstep
    exact succ n s t hstep hrest (ih hrest)

/-- Each step moves the program counter by the two bytes of the opcode. -/
theorem runSteps_pc {n : Nat} {s t : State} (h : runSteps n s = .next t) :
    t.pc = s.pc + BitVec.ofNat 32 (2 * n) := by
  induction h using runSteps_induction with
  | zero s => exact (BitVec.add_zero s.pc).symm
  | succ n s t _ _ ih =>
    rw [ih, State.afterCpuid_pc, BitVec.add_assoc, Nat.mul_succ, Nat.add_comm, BitVec.ofNat_add]
    rfl

theorem untouched_refl (s : State) : Untouched s s :=
  ⟨rfl, rfl, rfl, rfl, rfl, fun _ => rfl⟩

theorem untouched_trans {s t u : State} (h₁ : Untouched s t) (h₂ : Untouched t u) :
    Untouched s u where
  cfg := h₂.cfg.trans h₁.cfg
  eflags := h₂.eflags.trans h₁.eflags
  miscEnable := h₂.miscEnable.trans h₁.miscEnable
  ucodeSig := h₂.ucodeSig.trans h₁.ucodeSig
  named := h₂.named.trans h₁.named
  byte a := (h₂.byte a).trans (h₁.byte a)

/-- A run leaves alone what each of its steps does. -/
theorem runSteps_untouched {n : Nat} {s t : State} (h : runSteps n s = .next t) :
    Untouched s t := by
  induction h using runSteps_induction with
  | zero s => exact untouched_refl s
  | succ n s t _ _ ih => exact untouched_trans s.untouched_afterCpuid ih

/-- Without the update facility no step loads the signature register. -/
theorem runSteps_biosSignId {n : Nat} {s t : State} (h : runSteps n s = .next t)
    (hu : s.cfg.ucodeImpl = false) : t.biosSignId = s.biosSignId := by
  induction h using runSteps_induction with
  | zero s => rfl
  | succ n s t _ _ ih =>
    rw [ih hu, State.afterCpuid_biosSignId, State.loadedSignature_of_not hu]

/-- With the update facility the last step of a run loads the signature register. -/
theorem runSteps_updateSignature {n : Nat} {s t : State} (h : runSteps n s = .next t) (hn : 0 < n)
    (hu : s.cfg.ucodeImpl = true) : t.updateSignature = s.ucodeSig := by
  induction h using runSteps_induction with
  | zero s => exact absurd hn (Nat.lt_irrefl 0)
  | succ n s t _ hrest ih =>
    cases n with
    | zero =>
      cases hrest
      exact State.afterCpuid_updateSignature hu
    | succ n => exact ih (Nat.succ_pos n) hu

/-- A run none of whose steps selects leaf 2 with more than one image moves no leaf-2 position. -/
theorem runSteps_l2pos {n : Nat} {s t : State} (h : runSteps n s = .next t)
    (hnot : ∀ (k : Nat) (u : State), k < n → runSteps k s = .next u →
      ¬(u.selectedLeaf = 2 ∧ 1 < u.cfg.leaf2Count)) : t.l2pos = s.l2pos := by
  induction h using runSteps_induction with
  | zero s => rfl
  | succ n s t hstep _ ih =>
    have hfirst := hnot 0 s (Nat.succ_pos n) (runSteps_zero s)
    have hlater := ih fun k u hk hu =>
      hnot (k + 1) u (Nat.succ_lt_succ hk) ((runSteps_of_next k hstep).trans hu)
    rw [hlater, State.afterCpuid_l2pos, State.nextLeaf2Position_of_not hfirst]

/-- Settles O39: each clause is one induction over the run. With one image no state of the run can
select leaf 2 with more than one, since the configuration stays. -/
theorem runsKeepIdentificationAndAdvance : Obligations.RunsKeepIdentificationAndAdvance := by
  unfold Obligations.RunsKeepIdentificationAndAdvance
  refine fun n s t h => ⟨runSteps_pc h, runSteps_untouched h, runSteps_biosSignId h,
    fun h1 => runSteps_l2pos h fun k u _ hu hmore => ?single, runSteps_l2pos h,
    runSteps_updateSignature h⟩
  case single =>
    have hcfg : u.cfg = s.cfg := (runSteps_untouched hu).cfg
    rw [hcfg] at hmore
    exact Config.not_one_lt_leaf2Count h1 hmore.2

/-- Settles O41: a step that faults is on a processor without CPUID, and no step changes the
processor. -/
theorem noRunFaultsWhereImplemented : Obligations.NoRunFaultsWhereImplemented := by
  unfold Obligations.NoRunFaultsWhereImplemented
  intro n
  induction n with
  | zero => exact fun s r _ h => nomatch h
  | succ n ih =>
    intro s r hc h
    unfold runSteps at h
    split at h
    case h_1 t hstep =>
      obtain ⟨-, rfl⟩ := step_next_afterCpuid hstep
      exact ih s.afterCpuid r hc h
    case h_2 r' hstep =>
      obtain ⟨-, hnot, -⟩ := (onlyFaultIsInvalidOpcodeWithoutCpuid s r').mp hstep
      exact absurd (hnot.symm.trans hc) Bool.false_ne_true
    case h_3 => cases h

/-! ## Two runs on the same inputs -/

section SameInputs

variable {s t : State}

/-- The same inputs select the same leaf. -/
theorem selectedLeaf_eq_of_sameInputs (h : SameInputs s t) : t.selectedLeaf = s.selectedLeaf := by
  rw [State.selectedLeaf, State.selectedLeaf, h.eax, State.selectLeaf_congr h.cfg h.bootNt4]

/-- The same inputs have the same rows: a row reads the configuration, BOOT_NT4 and the leaf-2
position. -/
theorem leafRow_eq_of_sameInputs (h : SameInputs s t) (leaf ecx : Word) :
    t.leafRow leaf ecx = s.leafRow leaf ecx := by
  have hmax : t.effMaxBasic = s.effMaxBasic := State.effMaxBasic_congr h.cfg h.bootNt4
  unfold State.leafRow
  rw [hmax, h.cfg, h.l2pos]

/-- The same inputs give the same registers (R51). -/
theorem cpuidResult_eq_of_sameInputs (h : SameInputs s t) : t.cpuidResult = s.cpuidResult := by
  rw [State.cpuidResult, State.cpuidResult, selectedLeaf_eq_of_sameInputs h, h.ecx, h.draws,
    leafRow_eq_of_sameInputs h]

/-- The same inputs give the same next leaf-2 position. -/
theorem nextLeaf2Position_eq_of_sameInputs (h : SameInputs s t) :
    t.nextLeaf2Position = s.nextLeaf2Position := by
  rw [State.nextLeaf2Position, State.nextLeaf2Position, selectedLeaf_eq_of_sameInputs h, h.cfg,
    h.draws, h.l2pos]

/-- CPUID takes the same inputs to the same inputs. -/
theorem sameInputs_afterCpuid (h : SameInputs s t) : SameInputs s.afterCpuid t.afterCpuid where
  cfg := h.cfg
  eax := congrArg Quad.eax (cpuidResult_eq_of_sameInputs h)
  ecx := congrArg Quad.ecx (cpuidResult_eq_of_sameInputs h)
  bootNt4 := h.bootNt4
  l2pos := nextLeaf2Position_eq_of_sameInputs h
  draws := congrArg (· + 1) h.draws

/-- A step from the same inputs and the same text is a step to CPUID's next state again. -/
theorem step_of_sameInputs (h : SameInputs s t) (hpc : t.pc = s.pc) (hmem : t.mem = s.mem)
    (hstep : step s = .next s.afterCpuid) : step t = .next t.afterCpuid := by
  obtain ⟨i, hfetch, -⟩ := step_next hstep
  obtain ⟨hc, -⟩ := step_next_afterCpuid hstep
  cases i
  rw [step_of_fetch_ok ((State.fetch_congr hpc hmem).trans hfetch), exec_cpuid]
  exact execCpuid_of_impl (by rw [h.cfg, hc])

end SameInputs

/-- Settles O40: two runs go in step, from same inputs to same inputs, and the last step of both
gives the same registers. -/
theorem runsRevealOnlyTheInputs : Obligations.RunsRevealOnlyTheInputs := by
  unfold Obligations.RunsRevealOnlyTheInputs
  intro n s t s' h hpc hmem hrun
  induction hrun using runSteps_induction generalizing t with
  | zero s => exact ⟨t, rfl, h, hpc, hmem, fun hn => absurd hn (Nat.lt_irrefl 0)⟩
  | succ n s s' hstep hrest ih =>
    have hstep' := runSteps_of_next n (step_of_sameInputs h hpc hmem hstep)
    obtain ⟨t', hrun', hsame, hpcs, hmems, hregs⟩ :=
      ih t.afterCpuid (sameInputs_afterCpuid h) (congrArg (· + 2) hpc) hmem
    refine ⟨t', hstep'.trans hrun', hsame, hpcs, hmems, fun _ => ?_⟩
    cases n with
    | zero =>
      cases hrest
      cases hrun'
      exact cpuidResult_eq_of_sameInputs h
    | succ n => exact hregs (Nat.succ_pos n)

end Sys2Proof.Machine
end

section
/-! Proofs about registers and memory (spec/10_state.md sections 1 and 4, spec/20_memory.md section
2): what is read back after a write, and where the bytes of a stored value lie. -/

namespace Sys2Proof.Machine

/-! ## Registers -/

/-- A register read after a write, to itself or to another (R7). -/
theorem State.readReg_writeReg (s : State) (r r' : Reg) (v : Word) :
    (s.writeReg r v).readReg r' = if r' = r then v else s.readReg r' := by
  cases r <;> cases r' <;> rfl

/-- A bit of a word, as a number. -/
theorem getLsbD_eq_decide {n : Nat} (w : BitVec n) (k : Nat) :
    w.getLsbD k = decide (w.toNat / 2 ^ k % 2 = 1) := by
  rw [← BitVec.testBit_toNat, Nat.testBit_eq_decide_div_mod_eq]

/-- Settles O42: a byte register is byte 0 of the register read after the write. -/
theorem registersHoldWhatIsWritten : Obligations.RegistersHoldWhatIsWritten := by
  unfold Obligations.RegistersHoldWhatIsWritten
  refine ⟨State.readReg_writeReg, fun s r v => ?byteReg, fun s => ⟨s.toNat_updateSignature,
    getLsbD_eq_decide _ 10, getLsbD_eq_decide _ 22, getLsbD_eq_decide _ 24⟩⟩
  case byteReg =>
    rw [State.readByteReg, State.readReg_writeReg, if_pos rfl, toNat_byteOf, pow_zero, Nat.div_one]

/-! ## Memory -/

/-- Bytes written one piece after the other are the two pieces written at once. -/
theorem Memory.writeBytes_go_append (m : Memory) (a : Nat) (bs cs : List Byte) :
    Memory.writeBytes.go m a (bs ++ cs) =
      Memory.writeBytes.go (Memory.writeBytes.go m a bs) (a + bs.length) cs := by
  induction bs generalizing m a with
  | nil => rfl
  | cons b bs ih =>
    rw [List.cons_append, Memory.writeBytes.go, ih, Memory.writeBytes.go, List.length_cons,
      Nat.add_right_comm, Nat.add_assoc]

/-- Bytes written are what is read back, all of them at once. -/
theorem Memory.readBytes_writeBytes_go (m : Memory) {a : Word} {bs : List Byte} {n : Nat}
    (hn : bs.length = n) (h : a.toNat + n ≤ 2 ^ 32) :
    (Memory.writeBytes.go m a.toNat bs).readBytes a n = some bs := by
  subst hn
  rw [Memory.readBytes, if_pos h]
  exact Memory.readBytes_go_of rfl fun k hk => Memory.readByte_writeBytes_go hk

@[simp] theorem dwordBytes_length (v : Word) : (dwordBytes v).length = 4 := rfl

/-- The k-th of a value's four bytes is its byte k (R25). -/
theorem dwordBytes_getElem (v : Word) {k : Nat} (h : k < 4) : (dwordBytes v)[k] = byteOf v k := by
  match k, h with
  | 0, _ => rfl
  | 1, _ => rfl
  | 2, _ => rfl
  | 3, _ => rfl

/-- A 32-bit value stored is the value read back. -/
theorem Memory.readDword_of_writeDword {m m' : Memory} {a v : Word}
    (h : m.writeDword a v = some m') : m'.readDword a = some v := by
  obtain ⟨hle, rfl⟩ := Memory.writeDword_some h
  rw [Memory.readDword, Memory.readBytes_writeBytes_go m (dwordBytes_length v) hle, dwordBytes]
  exact congrArg some (dwordOfBytes_byteOf v)

/-- Settles O43: a stored value is its four bytes written at ascending addresses. -/
theorem storedDwordIsLittleEndian : Obligations.StoredDwordIsLittleEndian := by
  unfold Obligations.StoredDwordIsLittleEndian
  intro m m' a v h
  refine ⟨Memory.readDword_of_writeDword h, fun k hk => ?bytes, fun x hx => ?frame,
    fun hwf => Memory.writeDword_wf hwf h⟩
  all_goals obtain ⟨-, rfl⟩ := Memory.writeDword_some h
  case bytes =>
    rw [Memory.readByte_writeBytes_go (bs := dwordBytes v) hk, dwordBytes_getElem v hk,
      Option.map_some, toNat_byteOf]
  case frame => exact Memory.readByte_writeBytes_go_other hx

/-- The bytes of EBX, EDX and ECX of leaf 0, in that order, are the vendor string (R58). -/
theorem leaf0_dwordBytes (vendor : Vector Byte 12) :
    dwordBytes (pack4 vendor 0 (by decide)) ++ dwordBytes (pack4 vendor 4 (by decide)) ++
      dwordBytes (pack4 vendor 8 (by decide)) = vendor.toList := by
  have hlast : (vendor.toList.drop 8).take 4 = vendor.toList.drop 8 :=
    List.take_of_length_le (by simp)
  have hjoin : vendor.toList.take 4 ++ (vendor.toList.drop 4).take 4 = vendor.toList.take 8 :=
    List.take_add.symm
  rw [dwordBytes_pack4_take, dwordBytes_pack4_take, dwordBytes_pack4_take, List.drop_zero, hlast,
    hjoin, List.take_append_drop]

/-- Three values stored at ascending addresses are their twelve bytes written at once; the addresses
do not wrap. -/
theorem Memory.writeDword_three {m m1 m2 m3 : Memory} {a u v w : Word}
    (ha : a.toNat + 12 ≤ 2 ^ 32) (h1 : m.writeDword a u = some m1)
    (h2 : m1.writeDword (a + 4) v = some m2) (h3 : m2.writeDword (a + 8) w = some m3) :
    m3 = Memory.writeBytes.go m a.toNat (dwordBytes u ++ dwordBytes v ++ dwordBytes w) := by
  obtain ⟨-, rfl⟩ := Memory.writeDword_some h1
  obtain ⟨-, rfl⟩ := Memory.writeDword_some h2
  obtain ⟨-, rfl⟩ := Memory.writeDword_some h3
  have h4 : (a + 4).toNat = a.toNat + 4 :=
    BitVec.toNat_add_of_lt (lt_of_lt_of_le (Nat.add_lt_add_left (by decide) _) ha)
  have h8 : (a + 8).toNat = a.toNat + 8 :=
    BitVec.toNat_add_of_lt (lt_of_lt_of_le (Nat.add_lt_add_left (by decide) _) ha)
  rw [Memory.writeBytes_go_append, Memory.writeBytes_go_append, h4, h8]
  rfl

/-- Settles O44: the three stores lay down the bytes of EBX, EDX and ECX one after the other. -/
theorem storedLeafZeroSpellsTheVendor : Obligations.StoredLeafZeroSpellsTheVendor := by
  unfold Obligations.StoredLeafZeroSpellsTheVendor
  intro s t m1 m2 m3 a h0 hexec ha h1 h2 h3
  obtain ⟨-, rfl⟩ := execCpuid_next_iff.mp hexec
  rw [State.afterCpuid_regs, State.cpuidResult_of_eax_zero h0] at h1 h2 h3
  rw [Memory.writeDword_three ha h1 h2 h3, leaf0_dwordBytes]
  exact Memory.readBytes_writeBytes_go _ s.cfg.vendor.length_toList ha

end Sys2Proof.Machine
end

section
/-! Proofs about the procedures by which software uses CPUID (spec/44_branding_software.md,
spec/70_reset_and_hazards.md): what each of them answers, in terms of the configuration. -/

namespace Sys2Proof.Machine

open Sys2Proof.Safety

/-! ## Detecting CPUID -/

/-- A bit inverted and written back leaves the word as it was. -/
theorem withBit_withBit_getLsbD {n : Nat} (w : BitVec n) (k : Nat) (b : Bool) :
    withBit (withBit w k b) k (w.getLsbD k) = w := by
  refine BitVec.eq_of_getLsbD_eq fun j hj => ?_
  rw [getLsbD_withBit _ _ _ hj, getLsbD_withBit _ _ _ hj]
  by_cases hjk : j = k
  · rw [if_pos hjk, hjk]
  · rw [if_neg hjk, if_neg hjk]

/-- Without CPUID a write to the ID flag does nothing (D24). -/
theorem State.writeIdFlag_of_not_impl {s : State} (h : s.cfg.cpuidImpl = false) (b : Bool) :
    s.writeIdFlag b = s := by
  rw [State.writeIdFlag, if_neg (by rw [h]; exact Bool.false_ne_true)]

/-- With CPUID the ID flag takes the value written (R10). -/
theorem State.idFlag_writeIdFlag {s : State} (h : s.cfg.cpuidImpl = true) (b : Bool) :
    (s.writeIdFlag b).idFlag = b := by
  rw [State.idFlag, State.writeIdFlag_eflags, if_pos h, getLsbD_withBit _ _ _ (by decide),
    if_pos rfl]

/-- The original value of the ID flag written back restores the state. -/
theorem State.writeIdFlag_writeIdFlag_idFlag {s : State} (h : s.cfg.cpuidImpl = true) (b : Bool) :
    (s.writeIdFlag b).writeIdFlag s.idFlag = s := by
  have heflags : ((s.writeIdFlag b).writeIdFlag s.idFlag).eflags = s.eflags := by
    rw [State.writeIdFlag_eflags, State.writeIdFlag_cfg, if_pos h, State.writeIdFlag_eflags,
      if_pos h]
    exact withBit_withBit_getLsbD s.eflags idBit b
  exact congrArg (fun e => { s with eflags := e }) heflags

/-- Settles O45: with CPUID the inverted flag is seen changed, and written back; without it the flag
keeps its value, which is the answer. -/
theorem idFlagDetectionIsRight : Obligations.IdFlagDetectionIsRight := by
  unfold Obligations.IdFlagDetectionIsRight
  intro s
  unfold detectCpuid
  cases h : s.cfg.cpuidImpl with
  | true =>
    have hchanged : ((s.writeIdFlag !s.idFlag).idFlag != s.idFlag) = true := by
      rw [State.idFlag_writeIdFlag h]
      cases s.idFlag <;> rfl
    simp only [hchanged, if_true, State.writeIdFlag_writeIdFlag_idFlag h]
  | false =>
    simp only [State.writeIdFlag_of_not_impl h, bne_self_eq_false, Bool.false_eq_true, if_false]

/-! ## One execution with a given input -/

/-- The registers that software finds after an execution whose input selects a known leaf. -/
theorem State.cpuidWith_of_selectLeaf {s : State} (h : s.cfg.cpuidImpl = true) {input leaf : Word}
    (hleaf : s.selectLeaf input = leaf) :
    ∃ t, s.cpuidWith input = some t ∧ t.cfg = s.cfg ∧
      t.regs = (s.leafRow leaf s.regs.ecx).resolve s.draws := by
  obtain ⟨t, ht, hcfg, -, hregs⟩ := State.cpuidWith_of_impl h input
  exact ⟨t, ht, hcfg, by rw [hregs, hleaf]⟩

/-- Leaf 0 answers the effective maximum (R58). -/
theorem reportedMaxBasic_of_impl {s : State} (h : s.cfg.cpuidImpl = true) :
    reportedMaxBasic s = some s.effMaxBasic := by
  obtain ⟨t, ht, -, hregs⟩ := State.cpuidWith_of_selectLeaf h s.selectLeaf_zero
  rw [State.leafRow_basic0] at hregs
  rw [reportedMaxBasic, ht, Option.map_some, hregs]
  rfl

/-- MAX_EXT is at least 80000000H where extended leaves exist (R4). -/
theorem Config.le_maxExt_of_wf {c : Config} (hwf : c.wf = true) (hx : c.extImpl = true) :
    0x80000000 ≤ c.maxExt := by
  obtain ⟨-, hmax, -⟩ := Config.wf_iff.mp hwf
  simpa [Config.maxExtOk, hx] using hmax

/-- Leaf 80000000H answers MAX_EXT (R84). -/
theorem reportedMaxExt_of_ext {s : State} (h : s.cfg.cpuidImpl = true) (hwf : s.cfg.wf = true)
    (hx : s.cfg.extImpl = true) : reportedMaxExt s = some s.cfg.maxExt := by
  obtain ⟨t, ht, -, hregs⟩ := State.cpuidWith_of_selectLeaf h
    (State.selectLeaf_of_ext hx (BitVec.le_refl _) (Config.le_maxExt_of_wf hwf hx))
  rw [State.leafRow_ext0] at hregs
  rw [reportedMaxExt, ht, Option.map_some, hregs]
  rfl

/-- Without extended leaves input 80000000H answers EAX of the highest basic leaf (R93, D21). -/
theorem reportedMaxExt_of_no_ext {s : State} (h : s.cfg.cpuidImpl = true)
    (hx : s.cfg.extImpl = false) (hmax : s.effMaxBasic.toNat < 0x80000000) :
    reportedMaxExt s =
      some ((s.leafRow s.effMaxBasic s.regs.ecx).resolve s.draws).eax := by
  obtain ⟨t, ht, -, hregs⟩ := State.cpuidWith_of_selectLeaf h
    (State.selectLeaf_of_outOfRange (outOfRange_of_no_ext (v := 0x80000000) hmax hx))
  rw [reportedMaxExt, ht, Option.map_some, hregs]

/-- What software finds in the registers that leaf 1 fills (R59). -/
theorem State.cpuidWith_one_regs {s : State} (h : s.cfg.cpuidImpl = true)
    (hone : 1 ≤ s.effMaxBasic) :
    ∃ t, s.cpuidWith 1 = some t ∧ t.regs = ⟨s.cfg.version,
      dwordOfBytes s.cfg.brandIndex s.cfg.clflushLine s.cfg.logicalCount s.cfg.apicId,
      s.cfg.featEcx, s.cfg.featEdx⟩ :=
  ⟨_, State.cpuidWith_eq_afterCpuid h 1,
    State.cpuidResult_of_leaf_one (s := s.writeReg .eax 1) (State.selectLeaf_of_le hone)⟩

/-! ## The vendor string and the brand index -/

/-- Settles O60: the vendor string is read out of the three registers in its own order, and leaf 1
has the index and the signature. -/
theorem vendorAndBrandIndexReadOut : Obligations.VendorAndBrandIndexReadOut := by
  unfold Obligations.VendorAndBrandIndexReadOut
  intro s h
  constructor
  · obtain ⟨t, ht, -, hregs⟩ := State.cpuidWith_of_selectLeaf h s.selectLeaf_zero
    rw [State.leafRow_basic0] at hregs
    rw [readVendorString, ht, Option.map_some, hregs]
    exact congrArg some (leaf0_dwordBytes s.cfg.vendor)
  · intro hwf
    obtain ⟨t, ht, hversion, hindex⟩ := State.cpuidWith_one h hwf
    rw [readBrandIndex, ht, Option.map_some, hversion, hindex]

/-! ## The brand string -/

/-- The i-th execution of the read-out gives the i-th sixteen characters of the brand string (R96).
-/
theorem State.cpuidWith_brand {s : State} (h : s.cfg.cpuidImpl = true) (hx : s.cfg.extImpl = true)
    (hmax : 0x80000004 ≤ s.cfg.maxExt.toNat) {i : Nat} (hi : i < 3) {input : Word}
    (hinput : input.toNat = 0x80000002 + i) :
    ∃ t, s.cpuidWith input = some t ∧ t.cfg = s.cfg ∧
      quadBytes t.regs = (s.cfg.brandString.toList.drop (16 * i)).take 16 := by
  have hlow : 0x80000000 ≤ input.toNat := by omega
  have hhigh : input.toNat ≤ s.cfg.maxExt.toNat := by omega
  have hsel : s.selectLeaf input = input :=
    State.selectLeaf_of_ext hx (BitVec.le_def.mpr hlow) (BitVec.le_def.mpr hhigh)
  have hleaf : (s.writeReg .eax input).selectedLeaf.toNat = 0x80000002 + i :=
    (congrArg BitVec.toNat hsel).trans hinput
  refine ⟨_, State.cpuidWith_eq_afterCpuid h input, rfl, ?_⟩
  rw [State.afterCpuid_regs, State.cpuidResult_of_leaf_brand hi hleaf, quadBytes_brandRow]
  rfl

/-- A text of 48 bytes is its three pieces of sixteen. -/
theorem take_sixteen_append {l : List Byte} (h : l.length = 48) :
    (l.drop (16 * 0)).take 16 ++ (l.drop (16 * 1)).take 16 ++ (l.drop (16 * 2)).take 16 = l := by
  have hjoin : l.take 16 ++ (l.drop 16).take 16 = l.take (16 + 16) := List.take_add.symm
  have hlast : (l.drop 32).take 16 = l.drop 32 :=
    List.take_of_length_le (by rw [List.length_drop, h])
  rw [Nat.mul_zero, List.drop_zero, Nat.mul_one, hjoin, hlast]
  exact List.take_append_drop 32 l

/-- Settles O46: each execution leaves the configuration to the next, and the three answers are the
string's three pieces. -/
theorem brandStringReadOut : Obligations.BrandStringReadOut := by
  unfold Obligations.BrandStringReadOut
  intro s h hx hmax
  obtain ⟨t, ht, hct, hbt⟩ := State.cpuidWith_brand (i := 0) h hx hmax (by decide)
    (input := 0x80000002) rfl
  obtain ⟨u, hu, hcu, hbu⟩ := State.cpuidWith_brand (s := t) (i := 1) (by rw [hct, h])
    (by rw [hct, hx]) (by rwa [hct]) (by decide) (input := 0x80000003) rfl
  obtain ⟨v, hv, -, hbv⟩ := State.cpuidWith_brand (s := u) (i := 2) (by rw [hcu, hct, h])
    (by rw [hcu, hct, hx]) (by rwa [hcu, hct]) (by decide) (input := 0x80000004) rfl
  rw [hct] at hbu
  rw [hcu, hct] at hbv
  simp only [readBrandString, ht, hu, hv]
  rw [hbt, hbu, hbv, take_sixteen_append s.cfg.brandString.length_toList]

/-! ## The brand-string support test -/

/-- An EAX below 2^31 reports no brand string (R95). -/
theorem brandStringSupported_of_lt {s : State} {eax : Word} (h : reportedMaxExt s = some eax)
    (hlt : eax.toNat < 2 ^ 31) : brandStringSupported s = some false := by
  rw [brandStringSupported, h, Option.map_some, decide_eq_false]
  exact fun hle => absurd (BitVec.le_def.mp hle) (Nat.not_le_of_lt (lt_trans hlt (by decide)))

/-- A register of valid descriptors is a number below 2^31 (R78). -/
theorem toNat_lt_of_descriptorsValid {r : Word} (h : descriptorsValid r = true) :
    r.toNat < 2 ^ 31 := by
  rw [descriptorsValid, getLsbD_eq_decide, Bool.not_eq_true', decide_eq_false_iff_not] at h
  omega

/-- The branding method after each answer of the test (R100). -/
theorem chooseBrandMethod_of_supported {s : State} (h : s.cfg.cpuidImpl = true)
    (hwf : s.cfg.wf = true) {supported : Bool} (hs : brandStringSupported s = some supported) :
    chooseBrandMethod s = some
      (if supported = true then .brandString
      else if s.cfg.brandIndex = 0 then .familyModelStepping
      else .brandIndex) := by
  obtain ⟨t, ht, -, hindex⟩ := State.cpuidWith_one h hwf
  cases supported with
  | true => simp only [chooseBrandMethod, hs, if_true]
  | false =>
    simp only [chooseBrandMethod, hs, ht, hindex, Option.map_some, ite_not, Bool.false_eq_true,
      if_false]

/-- Settles O47: the test compares what input 80000000H returns, which is MAX_EXT with extended
leaves and EAX of the highest basic leaf without them. -/
theorem brandStringSupportTest : Obligations.BrandStringSupportTest := by
  unfold Obligations.BrandStringSupportTest
  intro s h hwf
  refine ⟨fun hx => ?extended, fun hx hmax hversion => ?version, fun hx hmax h1 hvalid => ?image,
    ?method⟩
  case extended =>
    rw [brandStringSupported, reportedMaxExt_of_ext h hwf hx]
    rfl
  case version =>
    refine brandStringSupported_of_lt (reportedMaxExt_of_no_ext h hx (by rw [hmax]; decide)) ?_
    rw [hmax, State.leafRow_basic1]
    exact hversion
  case image =>
    refine brandStringSupported_of_lt (reportedMaxExt_of_no_ext h hx (by rw [hmax]; decide)) ?_
    rw [hmax, State.leafRow_basic2, leaf2Row, Config.leaf2At_single h1]
    exact toNat_lt_of_descriptorsValid hvalid
  case method =>
    obtain ⟨t, ht, -⟩ := State.cpuidWith_of_impl h 0x80000000
    have hs : brandStringSupported s = some (decide (0x80000004 ≤ t.regs.eax)) := by
      rw [brandStringSupported, reportedMaxExt, ht]
      rfl
    exact ⟨_, hs, chooseBrandMethod_of_supported h hwf hs⟩

/-! ## Checked requests -/

/-- The PSN flag that software reads is the configuration's (R70). -/
theorem psnFlag_of_wf {s : State} (h : s.cfg.cpuidImpl = true) (hwf : s.cfg.wf = true) :
    psnFlag s = some s.cfg.psnImpl := by
  obtain ⟨-, -, -, hpsn, -⟩ := Config.wf_iff.mp hwf
  obtain ⟨t, ht, hregs⟩ := State.cpuidWith_one_regs h (State.one_le_effMaxBasic h hwf)
  rw [psnFlag, ht, Option.map_some, hregs, beq_iff_eq.mp hpsn]
  rfl

/-- Without CPUID no request can be checked: every check executes it. -/
theorem cpuidImpl_of_requestChecked {s : State} {input : Word} (h : requestChecked s input = true) :
    s.cfg.cpuidImpl = true := by
  cases hc : s.cfg.cpuidImpl with
  | true => rfl
  | false =>
    simp [requestChecked, reportedMaxExt, reportedMaxBasic, State.cpuidWith_of_not_impl hc] at h

/-- A checked extended request is at most MAX_EXT (R121 step 7). -/
theorem le_maxExt_of_requestChecked {s : State} {input : Word} (hwf : s.cfg.wf = true)
    (hx : s.cfg.extImpl = true) (hext : 0x80000000 ≤ input) (h : requestChecked s input = true) :
    input ≤ s.cfg.maxExt := by
  have hreported := reportedMaxExt_of_ext (cpuidImpl_of_requestChecked h) hwf hx
  simp only [requestChecked, hext, if_true, hreported, Bool.and_eq_true, decide_eq_true_eq] at h
  exact h.2

/-- A checked basic request is at most the effective maximum, and for leaf 3 there is a serial
number (R121 steps 2 and 5). -/
theorem le_effMaxBasic_of_requestChecked {s : State} {input : Word} (hwf : s.cfg.wf = true)
    (hbasic : ¬0x80000000 ≤ input) (h : requestChecked s input = true) :
    input ≤ s.effMaxBasic ∧ (input = 3 → s.cfg.psnImpl = true) := by
  have hc := cpuidImpl_of_requestChecked h
  simp only [requestChecked, hbasic, if_false, reportedMaxBasic_of_impl hc, psnFlag_of_wf hc hwf,
    Bool.and_eq_true, decide_eq_true_eq, Bool.or_eq_true, bne_iff_ne, beq_iff_eq,
    Option.some_inj] at h
  exact ⟨h.1, fun h3 => h.2.resolve_left (absurd h3)⟩

/-- Settles O48: what the checks compare with is MAX_EXT or the effective maximum, and an input up
to it selects itself. -/
theorem checkedRequestIsAnswered : Obligations.CheckedRequestIsAnswered := by
  unfold Obligations.CheckedRequestIsAnswered
  intro s input hwf hrange hchecked
  by_cases hext : 0x80000000 ≤ input
  · have hx : s.cfg.extImpl = true :=
      hrange.resolve_left (Nat.not_lt_of_le (BitVec.le_def.mp hext))
    refine ⟨State.selectLeaf_of_ext hx hext (le_maxExt_of_requestChecked hwf hx hext hchecked),
      fun h3 => ?_⟩
    rw [h3] at hext
    exact absurd hext (by decide)
  · obtain ⟨hle, hpsn⟩ := le_effMaxBasic_of_requestChecked hwf hext hchecked
    exact ⟨State.selectLeaf_of_le hle, hpsn⟩

/-! ## Enumerating the caches -/

/-- The caches of a configuration from an index on: the parameters of at most `fuel` indices, up to
the first of type "no more caches" (R73). -/
def cachesFrom (c : Config) : Nat → Word → List CacheParameters
  | 0, _ => []
  | fuel + 1, index =>
    if cacheType (c.leaf4At index).eax = .noMoreCaches then []
    else cacheParameters (c.leaf4At index) :: cachesFrom c fuel (index + 1)

/-- Where leaf 4 can be selected, software's enumeration is the configuration's list: each execution
leaves the configuration to the next. -/
theorem enumerateCaches_eq_cachesFrom {s : State} (h : s.cfg.cpuidImpl = true)
    (h4 : 4 ≤ s.effMaxBasic.toNat) (fuel : Nat) (index : Word) :
    enumerateCaches fuel index s = cachesFrom s.cfg fuel index := by
  induction fuel generalizing s index with
  | zero => rfl
  | succ fuel ih =>
    obtain ⟨t, hcfg, hmax, hturn⟩ := enumerateCaches_succ h h4 fuel index
    rw [hturn, ih (by rw [hcfg, h]) (by rwa [hmax]), hcfg]
    rfl

theorem cachesFrom_of_noMoreCaches {c : Config} {index : Word}
    (h : cacheType (c.leaf4At index).eax = .noMoreCaches) (fuel : Nat) :
    cachesFrom c fuel index = [] := by
  cases fuel with
  | zero => rfl
  | succ fuel => rw [cachesFrom, if_pos h]

/-- Counting an index on from the next one. -/
theorem add_one_add_ofNat (index : Word) (j : Nat) :
    index + 1 + BitVec.ofNat 32 j = index + BitVec.ofNat 32 (j + 1) := by
  rw [BitVec.add_assoc, Nat.add_comm j 1, BitVec.ofNat_add]
  rfl

/-- The list holds every index before the first without a cache, or before the fuel ends. -/
theorem cachesFrom_eq_map_range {c : Config} {fuel k : Nat} {index : Word}
    (hcaches : ∀ j < k, cacheType (c.leaf4At (index + BitVec.ofNat 32 j)).eax ≠ .noMoreCaches)
    (hend : k < fuel ∧ cacheType (c.leaf4At (index + BitVec.ofNat 32 k)).eax = .noMoreCaches ∨
      k = fuel) :
    cachesFrom c fuel index = (List.range k).map fun j =>
      cacheParameters (c.leaf4At (index + BitVec.ofNat 32 j)) := by
  induction k generalizing fuel index with
  | zero =>
    obtain ⟨-, hnone⟩ | rfl := hend
    · exact cachesFrom_of_noMoreCaches (by rwa [BitVec.add_zero] at hnone) fuel
    · rfl
  | succ k ih =>
    obtain ⟨fuel, rfl⟩ : ∃ n, fuel = n + 1 := Nat.exists_eq_succ_of_ne_zero (by omega)
    have hfirst : cacheType (c.leaf4At index).eax ≠ .noMoreCaches := by
      simpa using hcaches 0 (Nat.succ_pos k)
    have hrest := ih (fuel := fuel) (index := index + 1)
      (fun j hj => by rw [add_one_add_ofNat]; exact hcaches (j + 1) (Nat.succ_lt_succ hj))
      (by rw [add_one_add_ofNat]; exact hend.imp (And.imp_left Nat.lt_of_succ_lt_succ) Nat.succ.inj)
    rw [cachesFrom, if_neg hfirst, hrest, List.range_succ_eq_map, List.map_cons, List.map_map,
      BitVec.add_zero]
    simp only [add_one_add_ofNat, Function.comp_def, Nat.succ_eq_add_one]

/-- The list ends at any index without a cache. -/
theorem cachesFrom_length_le {c : Config} {k : Nat} {index : Word}
    (hnone : cacheType (c.leaf4At (index + BitVec.ofNat 32 k)).eax = .noMoreCaches) (fuel : Nat) :
    (cachesFrom c fuel index).length ≤ k := by
  induction k generalizing fuel index with
  | zero =>
    rw [BitVec.add_zero] at hnone
    rw [cachesFrom_of_noMoreCaches hnone fuel]
    exact Nat.le_refl 0
  | succ k ih =>
    cases fuel with
    | zero => exact Nat.zero_le _
    | succ fuel =>
      rw [cachesFrom]
      split
      · exact Nat.zero_le _
      · exact Nat.succ_le_succ (ih (by rwa [add_one_add_ofNat]) fuel)

/-- Settles O49: the enumeration is `cachesFrom` of the configuration, and the three clauses are
about that list. -/
theorem cacheEnumerationIsTheConfigurations :
    Obligations.CacheEnumerationIsTheConfigurations := by
  unfold Obligations.CacheEnumerationIsTheConfigurations
  refine ⟨fun fuel index s t hcfg h hs ht => ?config, fun fuel k index s h hs hcaches hend => ?list,
    fun fuel k index s h hs hnone => ?stop⟩
  case config =>
    rw [enumerateCaches_eq_cachesFrom h hs, enumerateCaches_eq_cachesFrom (by rw [hcfg, h]) ht,
      hcfg]
  case list =>
    rw [enumerateCaches_eq_cachesFrom h hs]
    exact cachesFrom_eq_map_range hcaches hend
  case stop =>
    rw [enumerateCaches_eq_cachesFrom h hs]
    exact cachesFrom_length_le hnone fuel

/-! ## Processors of a documented row -/

/-- Every row with a basic maximum has leaf 1 (R2, R4). -/
theorem ProcessorRow.one_le_maxBasic {r : ProcessorRow} {m : Word} (h : r.maxBasic = some m) :
    1 ≤ m := by
  cases r <;> cases h <;> decide

/-- Every row with an extended maximum has leaf 80000000H (R2, R4). -/
theorem ProcessorRow.le_maxExt {r : ProcessorRow} {e : Word} (h : r.maxExt = some e) :
    0x80000000 ≤ e := by
  cases r <;> cases h <;> decide

/-- Settles O59: the row fixes the maxima, the vendor string and the two fields; which leaf each of
the three inputs selects follows from the maxima. -/
theorem documentedRowsIdentifyThemselves : Obligations.DocumentedRowsIdentifyThemselves := by
  unfold Obligations.DocumentedRowsIdentifyThemselves
  intro s r hrow h hb
  obtain ⟨hmaxima, hvendor, hcount, hpsn⟩ := Config.ofRow_iff.mp hrow
  have hbasic := Config.maxBasic_of_maximaOfRow hmaxima h
  have hmax := State.effMaxBasic_of_clear hb
  refine ⟨?leaf0, ?leaf1, fun e he => ?ext0⟩
  case leaf0 =>
    obtain ⟨t, ht, hregs⟩ := State.exists_execCpuid_zero h
    rw [hmax, hvendor] at hregs
    refine ⟨t, ht, ?_⟩
    rw [hregs]
    exact ⟨hbasic, pack4_genuineIntel⟩
  case leaf1 =>
    have hone : s.selectLeaf 1 = 1 :=
      State.selectLeaf_of_le (hmax.symm ▸ ProcessorRow.one_le_maxBasic hbasic)
    have hregs : (s.writeReg .eax 1).afterCpuid.regs = _ :=
      State.cpuidResult_of_leaf_one (s := s.writeReg .eax 1) hone
    refine ⟨_, execCpuid_of_impl (s := s.writeReg .eax 1) h, fun hr => ?_, fun hwf hflag => ?_⟩
    · rw [hregs, leaf1Ebx_dwordOfBytes]
      exact hcount hr
    · obtain ⟨-, -, -, hbit, -⟩ := Config.wf_iff.mp hwf
      rw [hregs] at hflag
      exact hpsn ((beq_iff_eq.mp hbit).trans hflag)
  case ext0 =>
    obtain ⟨hx, rfl⟩ := Config.maximaOfRow_ext hmaxima he
    have hsel : s.selectLeaf 0x80000000 = 0x80000000 :=
      State.selectLeaf_of_ext hx (BitVec.le_refl _) (ProcessorRow.le_maxExt he)
    exact ⟨_, execCpuid_of_impl (s := s.writeReg .eax 0x80000000) h,
      State.cpuidResult_eax_of_leaf_ext0 (s := s.writeReg .eax 0x80000000) hsel⟩

end Sys2Proof.Machine
end

section
/-! Proofs about software's reading of the results (spec/41_basic_leaves.md R60 to R62, R71, R72,
spec/42_cache_tlb_leaf2.md, spec/44_branding_software.md R97): fields of words, descriptors, and the
frequency in a brand string. -/

namespace Sys2Proof.Machine

open Sys2Proof.Safety

/-! ## Fields as numbers -/

/-- A field of a word as a number. -/
theorem toNat_extractLsb' {n : Nat} (w : BitVec n) (start len : Nat) :
    (w.extractLsb' start len).toNat = w.toNat / 2 ^ start % 2 ^ len := by
  rw [BitVec.extractLsb'_toNat, Nat.shiftRight_eq_div_pow]

/-- Bits hi to lo as a number. -/
theorem fieldNat_eq (w : Word) (hi lo : Nat) :
    fieldNat w hi lo = w.toNat / 2 ^ lo % 2 ^ (hi - lo + 1) :=
  toNat_extractLsb' w lo (hi - lo + 1)

/-- A field that reaches the top bit needs no cut. -/
theorem fieldNat_top (w : Word) {lo : Nat} (h : lo ≤ 31) :
    fieldNat w 31 lo = w.toNat / 2 ^ lo := by
  rw [fieldNat_eq]
  refine Nat.mod_eq_of_lt (Nat.div_lt_of_lt_mul ?_)
  rw [← pow_add, show lo + (31 - lo + 1) = 32 by omega]
  exact w.isLt

/-! ## The version word -/

/-- The fields of the version word lie one above the other and leave no bit out (R60). -/
theorem versionFields_word (v : Word) : (versionFields v).word = v := by
  refine BitVec.eq_of_toNat_eq ?_
  simp only [VersionFields.word, versionFields, toNat_append, toNat_extractLsb']
  omega

/-- The processor type is read off bits 13:12 (R61). -/
theorem processorType_eq_getElem (v : Word) :
    some (processorType v) =
      ([.originalOem, .overDrive, .dualProcessor, .intelReserved] :
        List ProcessorType)[v.toNat / 2 ^ 12 % 4]? := by
  have htype : (versionFields v).processorType.toNat = v.toNat / 2 ^ 12 % 4 :=
    toNat_extractLsb' v 12 2
  have hlt : v.toNat / 2 ^ 12 % 4 < 4 := Nat.mod_lt _ (by decide)
  rw [processorType, htype]
  match v.toNat / 2 ^ 12 % 4, hlt with
  | 0, _ => rfl
  | 1, _ => rfl
  | 2, _ => rfl
  | 3, _ => rfl

/-- Settles O50: a field is a quotient and a remainder of the word, and the processor type is chosen
by one of the fields. -/
theorem versionFieldsAreTheWordsBits : Obligations.VersionFieldsAreTheWordsBits := by
  unfold Obligations.VersionFieldsAreTheWordsBits
  refine fun v => ⟨?stepping, toNat_extractLsb' v 4 4, toNat_extractLsb' v 8 4,
    toNat_extractLsb' v 12 2, toNat_extractLsb' v 16 4, toNat_extractLsb' v 20 8,
    versionFields_word v, processorType_eq_getElem v⟩
  case stepping =>
    rw [versionFields, toNat_extractLsb', pow_zero, Nat.div_one]
    rfl

/-- Four bits placed above four others and added fit in eight bits: no carry (R62). -/
theorem toNat_shiftLeft_add (hi lo : BitVec 4) :
    ((hi.setWidth 8 <<< 4) + lo.setWidth 8).toNat = 16 * hi.toNat + lo.toNat := by
  have hhi := hi.isLt
  have hlo := lo.isLt
  rw [BitVec.toNat_add, BitVec.toNat_shiftLeft, BitVec.toNat_setWidth, BitVec.toNat_setWidth,
    Nat.shiftLeft_eq]
  omega

/-- Settles O51: bits 23:20 are the low four bits of the extended family. -/
theorem displayedModelAndFamilyDoNotCarry : Obligations.DisplayedModelAndFamilyDoNotCarry := by
  unfold Obligations.DisplayedModelAndFamilyDoNotCarry
  refine fun v => ⟨toNat_shiftLeft_add _ _, ?family⟩
  case family =>
    have hlow : (v.extractLsb' 20 4).toNat = (v.extractLsb' 20 8).toNat % 16 := by
      rw [toNat_extractLsb', toNat_extractLsb', Nat.mod_mod_of_dvd _ (by decide)]
      rfl
    rw [displayedFamily, toNat_shiftLeft_add, hlow]
    rfl

/-! ## Leaf 2 -/

/-- A register of zeros holds no descriptor. -/
theorem registerDescriptors_zero (bytes : List Nat) : registerDescriptors 0 bytes = [] := by
  refine List.eq_nil_iff_forall_not_mem.mpr fun d hd => ?_
  obtain ⟨-, hne, k, -, hk⟩ := mem_registerDescriptors.mp hd
  refine hne (BitVec.eq_of_toNat_eq ?_)
  rw [← hk, toNat_byteOf]
  exact congrArg (· % 256) (Nat.zero_div (256 ^ k))

/-- A register with bit 31 set reads as a register of zeros (R78). -/
theorem registerDescriptors_eq_zero {r : Word} (h : r.getLsbD 31 = true) (bytes : List Nat) :
    registerDescriptors r bytes = registerDescriptors 0 bytes := by
  rw [registerDescriptors_of_invalid h, registerDescriptors_zero]

/-- The low byte of a word kept alone, as a number. -/
theorem toNat_and_255 (w : Word) : (w &&& 0xFF).toNat = w.toNat % 256 :=
  (BitVec.toNat_and w 0xFF).trans (Nat.and_two_pow_sub_one_eq_mod w.toNat 8)

theorem byteOf_and_255_zero (w : Word) : byteOf (w &&& 0xFF) 0 = byteOf w 0 := by
  refine BitVec.eq_of_toNat_eq ?_
  rw [toNat_byteOf, toNat_byteOf, toNat_and_255, pow_zero, Nat.div_one, Nat.div_one, Nat.mod_mod]

/-- Above its low byte such a word holds no descriptor. -/
theorem registerDescriptors_and_255 (w : Word) :
    registerDescriptors (w &&& 0xFF) [1, 2, 3] = [] := by
  refine List.eq_nil_iff_forall_not_mem.mpr fun d hd => ?_
  obtain ⟨-, hne, k, hk, rfl⟩ := mem_registerDescriptors.mp hd
  have hpos : 1 ≤ k := by
    simp only [List.mem_cons, List.not_mem_nil, or_false] at hk
    omega
  have hsmall : w.toNat % 256 < 256 ^ k :=
    lt_of_lt_of_le (Nat.mod_lt _ (by decide)) (Nat.le_self_pow (Nat.one_le_iff_ne_zero.mp hpos) 256)
  refine hne (BitVec.eq_of_toNat_eq ?_)
  rw [toNat_byteOf, toNat_and_255, Nat.div_eq_of_lt hsmall]
  rfl

/-- The top byte of a register of valid descriptors is below 80H (R78). -/
theorem toNat_lt_of_mem_top_byte {r : Word} {d : Byte} (h : d ∈ registerDescriptors r [3]) :
    d.toNat < 0x80 := by
  obtain ⟨hvalid, -, k, hk, rfl⟩ := mem_registerDescriptors.mp h
  have hr := toNat_lt_of_descriptorsValid (r := r) (by rw [descriptorsValid, hvalid]; rfl)
  rw [List.mem_singleton.mp hk, toNat_byteOf]
  omega

/-- No null descriptor is listed, whatever the image (R79). -/
theorem zero_not_mem_decodeLeaf2 (q : Quad) : (0 : Byte) ∉ (decodeLeaf2 q).2 := by
  have hreg : ∀ (r : Word) (bytes : List Nat), (0 : Byte) ∉ registerDescriptors r bytes :=
    fun r bytes h => (mem_registerDescriptors.mp h).2.1 rfl
  simp only [decodeLeaf2, List.mem_append, hreg, or_self, not_false_eq_true]

/-- Three bytes of EAX and four of each other register are fifteen. -/
theorem decodeLeaf2_length_le (q : Quad) : (decodeLeaf2 q).2.length ≤ 15 := by
  have ha := registerDescriptors_length_le q.eax [1, 2, 3]
  have hb := registerDescriptors_length_le q.ebx [0, 1, 2, 3]
  have hc := registerDescriptors_length_le q.ecx [0, 1, 2, 3]
  have hd := registerDescriptors_length_le q.edx [0, 1, 2, 3]
  simp only [decodeLeaf2, List.length_append, List.length_cons, List.length_nil] at *
  omega

/-- Settles O53: the image's descriptors are those of its four registers one after the other, and
each register's are known by `registerDescriptors_count` and `mem_registerDescriptors`. -/
theorem leafTwoDecodingSkipsReservedRegisters :
    Obligations.LeafTwoDecodingSkipsReservedRegisters := by
  unfold Obligations.LeafTwoDecodingSkipsReservedRegisters
  refine ⟨fun q => ?al, fun q d hd => ?count, fun q h => ?ebx, fun q h => ?ecx, fun q h => ?edx,
    fun q h => ?eax, fun r d hd => toNat_lt_of_mem_top_byte hd,
    fun q => ⟨zero_not_mem_decodeLeaf2 q, decodeLeaf2_length_le q⟩⟩
  case al =>
    rw [decodeLeaf2, toNat_byteOf, pow_zero, Nat.div_one]
    rfl
  case count =>
    simp only [decodeLeaf2, List.count_append, registerDescriptors_count _ _ hd,
      ← List.countP_append]
    rfl
  case ebx => rw [decodeLeaf2, decodeLeaf2, registerDescriptors_eq_zero h]
  case ecx => rw [decodeLeaf2, decodeLeaf2, registerDescriptors_eq_zero h]
  case edx => rw [decodeLeaf2, decodeLeaf2, registerDescriptors_eq_zero h]
  case eax =>
    rw [decodeLeaf2, decodeLeaf2, registerDescriptors_of_invalid h, registerDescriptors_and_255,
      byteOf_and_255_zero]

/-- Settles O54: the reset state's processor has one leaf-2 image, and the decoding of that image is
evaluated. -/
theorem firstPentium4LeafTwoExample : Obligations.FirstPentium4LeafTwoExample := by
  unfold Obligations.FirstPentium4LeafTwoExample
  have hsel : (State.reset.writeReg .eax 2).selectedLeaf = 2 := by decide
  have hregs : (State.reset.writeReg .eax 2).afterCpuid.regs = ⟨0x665B5001, 0, 0, 0x007A7000⟩ := by
    rw [State.afterCpuid_regs, State.cpuidResult_of_leaf_two hsel]
    decide
  refine ⟨_, execCpuid_of_impl (s := State.reset.writeReg .eax 2) rfl, hregs, ?_⟩
  rw [hregs]
  decide

/-- No descriptor stands twice in the table (R79). -/
theorem descriptorTable_nodup : (descriptorTable.map Prod.fst).Nodup := by decide

/-- Settles O58: the rows are evaluated kind by kind, and with no key twice the look-up finds
exactly the table's rows. -/
theorem descriptorTableIsUnambiguous : Obligations.DescriptorTableIsUnambiguous := by
  unfold Obligations.DescriptorTableIsUnambiguous
  refine ⟨rfl, descriptorTable_nodup, by decide,
    fun d i => lookup_eq_some_iff_mem descriptorTable_nodup, ?_⟩
  decide

/-! ## Leaf 4 -/

/-- Settles O55: each field is its bits as a number, with one added where R72 says so; three of them
reach the top of their register. -/
theorem cacheCountsAddOneWithoutWrap : Obligations.CacheCountsAddOneWithoutWrap := by
  unfold Obligations.CacheCountsAddOneWithoutWrap
  have hlow : ∀ (w : Word) (hi : Nat), fieldNat w hi 0 = w.toNat % 2 ^ (hi + 1) := fun w hi => by
    rw [fieldNat_eq, pow_zero, Nat.div_one, Nat.sub_zero]
  intro q
  refine ⟨?type, fieldNat_eq q.eax 7 5, getLsbD_eq_decide q.eax 8, getLsbD_eq_decide q.eax 9,
    congrArg (· + 1) (fieldNat_top q.eax (by decide)), congrArg (· + 1) (fieldNat_eq q.eax 25 14),
    congrArg (· + 1) (hlow q.ebx 11), congrArg (· + 1) (fieldNat_eq q.ebx 21 12),
    congrArg (· + 1) (fieldNat_top q.ebx (by decide)), rfl⟩
  case type =>
    have htype : fieldNat q.eax 4 0 = q.eax.toNat % 2 ^ 5 := hlow q.eax 4
    rw [← htype]
    rfl

/-! ## The maximum frequency -/

/-- Decimal digits are no blank, no point and no NUL. -/
theorem not_mem_of_digits {ds : List Byte} (h : ∀ b ∈ ds, isDigit b = true) {c : Byte}
    (hc : isDigit c = false) : c ∉ ds :=
  fun hmem => Bool.false_ne_true (hc.symm.trans (h c hmem))

/-- Where there are digits, one of them is a digit. -/
theorem any_isDigit_of_digits {ds : List Byte} (h : ∀ b ∈ ds, isDigit b = true) (hne : ds ≠ []) :
    ds.any isDigit = true := by
  obtain ⟨b, hb⟩ := List.exists_mem_of_ne_nil ds hne
  exact List.any_eq_true.mpr ⟨b, hb, h b hb⟩

/-- The number that decimal digits spell, read from the left (R97). -/
abbrev decimalValue (ds : List Byte) : Nat :=
  ds.foldl (fun n b => 10 * n + (b.toNat - 48)) 0

/-- A number without a point. -/
theorem parseDecimal_whole {ds : List Byte} (h : ∀ b ∈ ds, isDigit b = true) :
    parseDecimal 0 0 false ds = some (decimalValue ds, 0) := by
  have hread := parseDecimal_digits h 0 0 false []
  rwa [List.append_nil] at hread

/-- A number with a point: its digits as one number, and those after the point counted. -/
theorem parseDecimal_whole_fraction {ds fs : List Byte} (hd : ∀ b ∈ ds, isDigit b = true)
    (hf : ∀ b ∈ fs, isDigit b = true) :
    parseDecimal 0 0 false (ds ++ 0x2E :: fs) = some (decimalValue (ds ++ fs), fs.length) := by
  have hread := parseDecimal_digits hf (decimalValue ds) 0 true []
  rw [List.append_nil] at hread
  rw [parseDecimal_digits hd, if_neg Bool.false_ne_true, parseDecimal_point, hread, if_pos rfl,
    Nat.zero_add, parseDecimal, ← List.foldl_append]

/-- What the procedure reads before the last unit of a text: the number after the nearest blank
(R97). -/
theorem maxFrequency_number {before number after : List Byte} {u : Byte} {e : Nat}
    (hu : unitExponent u = some e) (hbefore : 0 ∉ before) (hnul : 0 ∉ number)
    (hblank : 0x20 ∉ number) (hdigit : number.any isDigit = true)
    (hafter : ¬UnitIn (brandText after)) :
    maxFrequency (before ++ 0x20 :: (number ++ [u, 0x48, 0x7A] ++ after)) =
      (parseDecimal 0 0 false number).map fun p => ⟨p.1, p.2, e⟩ := by
  have hu0 : 0 ≠ u := by
    rintro rfl
    cases hu
  have hprefix : 0 ∉ before ++ 0x20 :: number ++ [u, 0x48, 0x7A] := by
    simp only [List.mem_append, List.mem_cons, hbefore, hnul, hu0, List.not_mem_nil, or_false,
      false_or]
    decide
  have htext : brandText (before ++ 0x20 :: (number ++ [u, 0x48, 0x7A] ++ after)) =
      (before ++ 0x20 :: number) ++ [u, 0x48, 0x7A] ++ brandText after := by
    rw [← brandText_append hprefix]
    simp
  have hnumber : ((before ++ 0x20 :: number).reverse.takeWhile (· != 0x20)).reverse = number := by
    have hkeep : ∀ b ∈ number.reverse, (b != 0x20) = true := fun b hb =>
      bne_iff_ne.mpr fun hb20 => hblank (hb20 ▸ List.mem_reverse.mp hb)
    rw [List.reverse_append, List.reverse_cons, List.append_assoc,
      List.takeWhile_append_of_pos hkeep]
    simp
  rw [maxFrequency, htext, scanUnit_last hu hafter]
  simp only [hnumber, hdigit, if_true]

/-- Settles O56: between the nearest blank and the last unit stand the digits, with or without a
point, and `parseDecimal` reads them from the left. -/
theorem maximumFrequencyFromTheBrandString : Obligations.MaximumFrequencyFromTheBrandString := by
  unfold Obligations.MaximumFrequencyFromTheBrandString
  refine ⟨by decide, fun before whole fraction after u e hu hdigits hbefore hafter => ?number,
    fun text htext => ?error, fun f hf => ?exact⟩
  case number =>
    have hexp : unitExponent u = some e := by
      simp only [List.mem_cons, Prod.mk.injEq, List.not_mem_nil, or_false] at hu
      obtain ⟨rfl, rfl⟩ | ⟨rfl, rfl⟩ | ⟨rfl, rfl⟩ := hu <;> rfl
    have hw : ∀ b ∈ whole, isDigit b = true := fun b hb => hdigits b (List.mem_append_left _ hb)
    have hf : ∀ b ∈ fraction, isDigit b = true := fun b hb => hdigits b (List.mem_append_right _ hb)
    constructor
    · intro hne
      rw [maxFrequency_number hexp hbefore (not_mem_of_digits hw rfl) (not_mem_of_digits hw rfl)
        (any_isDigit_of_digits hw hne) hafter, parseDecimal_whole hw, Option.map_some]
    · intro hne
      have hmem : ∀ c : Byte, isDigit c = false → c ≠ 0x2E → c ∉ whole ++ 0x2E :: fraction := by
        intro c hc hpoint
        simp only [List.mem_append, List.mem_cons, not_mem_of_digits hw hc,
          not_mem_of_digits hf hc, hpoint, or_self, not_false_eq_true]
      have hany : (whole ++ 0x2E :: fraction).any isDigit = true := by
        have hboth := any_isDigit_of_digits hdigits hne
        rw [List.any_append, Bool.or_eq_true] at hboth ⊢
        exact hboth.imp_right fun h => by rw [List.any_cons, h, Bool.or_true]
      have hshape : whole ++ 0x2E :: (fraction ++ [u, 0x48, 0x7A] ++ after) =
          (whole ++ 0x2E :: fraction) ++ [u, 0x48, 0x7A] ++ after := by simp
      rw [hshape, maxFrequency_number hexp hbefore (hmem 0 rfl (by decide))
        (hmem 0x20 rfl (by decide)) hany hafter, parseDecimal_whole_fraction hw hf,
        Option.map_some]
  case error =>
    rw [maxFrequency, scanUnit_none htext]
  case exact =>
    have hdvd : 10 ^ f.fractionDigits ∣ f.digits * 10 ^ f.exponent :=
      Dvd.dvd.mul_left (pow_dvd_pow 10 hf) f.digits
    exact Nat.div_mul_cancel hdvd

end Sys2Proof.Machine
end
